-- ==== Sys2Proof/Word.lean ====
section
/-! DEFINITION. The words of the machine: bytes, addresses and the cycle counter (spec 00_scope.md R6). -/

namespace Sys2Proof

/-- A byte: A, X, Y, SP, P, IR and every datum in memory (R6). -/
abbrev Byte := BitVec 8

/-- A 16-bit word: PC, an effective address, a bus address (R6). -/
abbrev Word := BitVec 16

/-- The cycle counter's 64 bits (R6, R33). -/
abbrev Cycles := BitVec 64

end Sys2Proof
end

