-- ==== Sys2Proof/Syntax.lean ====
section
/-! DEFINITION. The abstract syntax of the instruction set: the 13 addressing modes with their operand bytes, the
mnemonics, and the instructions (spec 30_encoding.md R80 to R84, 40_addressing_modes.md R101 to R113). -/

namespace Sys2Proof

/-- The 13 addressing modes, under the source's three-letter names (R101 to R113). -/
inductive Mode where
  | acc | imp | imm | zer | zex | zey | abs | abx | aby | abi | inx | iny | rel
deriving DecidableEq, Repr

/-- An operand: an addressing mode together with the operand bytes that follow the opcode (R80, R81). -/
inductive Operand where
  /-- ACC: the accumulator (R101). -/
  | acc
  /-- IMP: no operand (R102). -/
  | imp
  /-- IMM `#$nn`: the operand byte itself (R103). -/
  | imm (value : Byte)
  /-- ZER `$nn` (R104). -/
  | zer (address : Byte)
  /-- ZEX `$nn,X` (R105). -/
  | zex (address : Byte)
  /-- ZEY `$nn,Y` (R106). -/
  | zey (address : Byte)
  /-- ABS `$nnnn` (R107). -/
  | abs (address : Word)
  /-- ABX `$nnnn,X` (R108). -/
  | abx (base : Word)
  /-- ABY `$nnnn,Y` (R109). -/
  | aby (base : Word)
  /-- ABI `($nnnn)` (R110). -/
  | abi (pointer : Word)
  /-- INX, indexed indirect `($nn,X)` (R111). -/
  | inx (address : Byte)
  /-- INY, indirect indexed `($nn),Y` (R112). -/
  | iny (pointer : Byte)
  /-- REL: a signed offset from the address of the next instruction (R113). -/
  | rel (offset : Byte)
deriving DecidableEq, Repr

/-- The mode of an operand. -/
def Operand.mode : Operand → Mode
  | .acc => .acc
  | .imp => .imp
  | .imm _ => .imm
  | .zer _ => .zer
  | .zex _ => .zex
  | .zey _ => .zey
  | .abs _ => .abs
  | .abx _ => .abx
  | .aby _ => .aby
  | .abi _ => .abi
  | .inx _ => .inx
  | .iny _ => .iny
  | .rel _ => .rel

/-- The 56 mnemonics and the ILLEGAL entry (R82, R84). -/
inductive Mnemonic where
  | lda | ldx | ldy | sta | stx | sty
  | tax | tay | txa | tya | tsx | txs
  | adc | sbc
  | and | eor | ora | asl | lsr | rol | ror | bit
  | cmp | cpx | cpy | inc | dec | inx | iny | dex | dey
  | bcc | bcs | beq | bne | bmi | bpl | bvc | bvs
  | jmp | jsr | rts | rti | brk
  | clc | sec | cld | sed | cli | sei | clv
  | pha | php | pla | plp | nop
  | illegal
deriving DecidableEq, Repr

/-- The instructions: one constructor for each mnemonic of spec/opcode_table.json.  A constructor whose mnemonic the table
pairs with a mode other than IMP carries its operand, so that every row of the table is one constructor at one mode
(for ILLEGAL: at one opcode byte).  Which modes a constructor may carry is the check of WellFormed.lean (R116). -/
inductive Instr where
  -- Loads and stores (41_load_store_transfer.md R121 to R126)
  | lda (o : Operand)
  | ldx (o : Operand)
  | ldy (o : Operand)
  | sta (o : Operand)
  | stx (o : Operand)
  | sty (o : Operand)
  -- Transfers (R127 to R132)
  | tax
  | tay
  | txa
  | tya
  | tsx
  | txs
  -- Arithmetic (42_arithmetic.md R141, R144)
  | adc (o : Operand)
  | sbc (o : Operand)
  -- Logic, shifts, rotates, bit test (43_logical_shift_bit.md R151 to R158)
  | and (o : Operand)
  | eor (o : Operand)
  | ora (o : Operand)
  | asl (o : Operand)
  | lsr (o : Operand)
  | rol (o : Operand)
  | ror (o : Operand)
  | bit (o : Operand)
  -- Compares, increments, decrements (44_compare_incdec.md R171 to R179)
  | cmp (o : Operand)
  | cpx (o : Operand)
  | cpy (o : Operand)
  | inc (o : Operand)
  | dec (o : Operand)
  | inx
  | iny
  | dex
  | dey
  -- Branches (45_branch_jump_call.md R191 to R198)
  | bcc (o : Operand)
  | bcs (o : Operand)
  | beq (o : Operand)
  | bne (o : Operand)
  | bmi (o : Operand)
  | bpl (o : Operand)
  | bvc (o : Operand)
  | bvs (o : Operand)
  -- Jumps, calls, returns, software interrupt (R199 to R203)
  | jmp (o : Operand)
  | jsr (o : Operand)
  | rts
  | rti
  | brk
  -- Flag instructions (46_flag_stack_nop.md R210 to R216)
  | clc
  | sec
  | cld
  | sed
  | cli
  | sei
  | clv
  -- Stack instructions and NOP (R217 to R221)
  | pha
  | php
  | pla
  | plp
  | nop
  -- The 105 opcode bytes outside the official map (R85, R226)
  | illegal (opcode : Byte)
deriving DecidableEq, Repr

/-- The mnemonic of an instruction. -/
def Instr.mnemonic : Instr → Mnemonic
  | .lda _ => .lda
  | .ldx _ => .ldx
  | .ldy _ => .ldy
  | .sta _ => .sta
  | .stx _ => .stx
  | .sty _ => .sty
  | .tax => .tax
  | .tay => .tay
  | .txa => .txa
  | .tya => .tya
  | .tsx => .tsx
  | .txs => .txs
  | .adc _ => .adc
  | .sbc _ => .sbc
  | .and _ => .and
  | .eor _ => .eor
  | .ora _ => .ora
  | .asl _ => .asl
  | .lsr _ => .lsr
  | .rol _ => .rol
  | .ror _ => .ror
  | .bit _ => .bit
  | .cmp _ => .cmp
  | .cpx _ => .cpx
  | .cpy _ => .cpy
  | .inc _ => .inc
  | .dec _ => .dec
  | .inx => .inx
  | .iny => .iny
  | .dex => .dex
  | .dey => .dey
  | .bcc _ => .bcc
  | .bcs _ => .bcs
  | .beq _ => .beq
  | .bne _ => .bne
  | .bmi _ => .bmi
  | .bpl _ => .bpl
  | .bvc _ => .bvc
  | .bvs _ => .bvs
  | .jmp _ => .jmp
  | .jsr _ => .jsr
  | .rts => .rts
  | .rti => .rti
  | .brk => .brk
  | .clc => .clc
  | .sec => .sec
  | .cld => .cld
  | .sed => .sed
  | .cli => .cli
  | .sei => .sei
  | .clv => .clv
  | .pha => .pha
  | .php => .php
  | .pla => .pla
  | .plp => .plp
  | .nop => .nop
  | .illegal _ => .illegal

/-- The operand of an instruction; IMP where the constructor carries none (R102, R226). -/
def Instr.operand : Instr → Operand
  | .lda o => o
  | .ldx o => o
  | .ldy o => o
  | .sta o => o
  | .stx o => o
  | .sty o => o
  | .tax => .imp
  | .tay => .imp
  | .txa => .imp
  | .tya => .imp
  | .tsx => .imp
  | .txs => .imp
  | .adc o => o
  | .sbc o => o
  | .and o => o
  | .eor o => o
  | .ora o => o
  | .asl o => o
  | .lsr o => o
  | .rol o => o
  | .ror o => o
  | .bit o => o
  | .cmp o => o
  | .cpx o => o
  | .cpy o => o
  | .inc o => o
  | .dec o => o
  | .inx => .imp
  | .iny => .imp
  | .dex => .imp
  | .dey => .imp
  | .bcc o => o
  | .bcs o => o
  | .beq o => o
  | .bne o => o
  | .bmi o => o
  | .bpl o => o
  | .bvc o => o
  | .bvs o => o
  | .jmp o => o
  | .jsr o => o
  | .rts => .imp
  | .rti => .imp
  | .brk => .imp
  | .clc => .imp
  | .sec => .imp
  | .cld => .imp
  | .sed => .imp
  | .cli => .imp
  | .sei => .imp
  | .clv => .imp
  | .pha => .imp
  | .php => .imp
  | .pla => .imp
  | .plp => .imp
  | .nop => .imp
  | .illegal _ => .imp

end Sys2Proof
end

