-- ==== Sys2Proof/WellFormed.lean ====
section
/-! DEFINITION. Which instructions are well formed: which mnemonic may appear with which mode "is fixed by the opcode map"
(spec 40_addressing_modes.md R116), and which bytes are ILLEGAL entries (30_encoding.md R85). -/

namespace Sys2Proof

/-- The eight modes of ADC, AND, CMP, EOR, LDA, ORA, SBC (R84). -/
def readModes : List Mode := [.imm, .zer, .zex, .abs, .abx, .aby, .inx, .iny]

/-- The five modes of ASL, LSR, ROL, ROR (R159). -/
def shiftModes : List Mode := [.acc, .zer, .zex, .abs, .abx]

/-- The modes the opcode map pairs with a mnemonic (R84). -/
def Mnemonic.modes : Mnemonic → List Mode
  | .lda => readModes
  | .ldx => [.imm, .zer, .zey, .abs, .aby]
  | .ldy => [.imm, .zer, .zex, .abs, .abx]
  | .sta => [.zer, .zex, .abs, .abx, .aby, .inx, .iny]
  | .stx => [.zer, .zey, .abs]
  | .sty => [.zer, .zex, .abs]
  | .tax => [.imp]
  | .tay => [.imp]
  | .txa => [.imp]
  | .tya => [.imp]
  | .tsx => [.imp]
  | .txs => [.imp]
  | .adc => readModes
  | .sbc => readModes
  | .and => readModes
  | .eor => readModes
  | .ora => readModes
  | .asl => shiftModes
  | .lsr => shiftModes
  | .rol => shiftModes
  | .ror => shiftModes
  | .bit => [.zer, .abs]
  | .cmp => readModes
  | .cpx => [.imm, .zer, .abs]
  | .cpy => [.imm, .zer, .abs]
  | .inc => [.zer, .zex, .abs, .abx]
  | .dec => [.zer, .zex, .abs, .abx]
  | .inx => [.imp]
  | .iny => [.imp]
  | .dex => [.imp]
  | .dey => [.imp]
  | .bcc => [.rel]
  | .bcs => [.rel]
  | .beq => [.rel]
  | .bne => [.rel]
  | .bmi => [.rel]
  | .bpl => [.rel]
  | .bvc => [.rel]
  | .bvs => [.rel]
  | .jmp => [.abs, .abi]
  | .jsr => [.abs]
  | .rts => [.imp]
  | .rti => [.imp]
  | .brk => [.imp]
  | .clc => [.imp]
  | .sec => [.imp]
  | .cld => [.imp]
  | .sed => [.imp]
  | .cli => [.imp]
  | .sei => [.imp]
  | .clv => [.imp]
  | .pha => [.imp]
  | .php => [.imp]
  | .pla => [.imp]
  | .plp => [.imp]
  | .nop => [.imp]
  | .illegal => [.imp]

/-- The 105 ILLEGAL opcode bytes, as the spec lists them (R85). -/
def illegalBytes : List Byte :=
  [0x02, 0x03, 0x04, 0x07, 0x0B, 0x0C, 0x0F, 0x12, 0x13, 0x14, 0x17, 0x1A, 0x1B, 0x1C, 0x1F] ++
  [0x22, 0x23, 0x27, 0x2B, 0x2F, 0x32, 0x33, 0x34, 0x37, 0x3A, 0x3B, 0x3C, 0x3F, 0x42, 0x43] ++
  [0x44, 0x47, 0x4B, 0x4F, 0x52, 0x53, 0x54, 0x57, 0x5A, 0x5B, 0x5C, 0x5F, 0x62, 0x63, 0x64] ++
  [0x67, 0x6B, 0x6F, 0x72, 0x73, 0x74, 0x77, 0x7A, 0x7B, 0x7C, 0x7F, 0x80, 0x82, 0x83, 0x87] ++
  [0x89, 0x8B, 0x8F, 0x92, 0x93, 0x97, 0x9B, 0x9C, 0x9E, 0x9F, 0xA3, 0xA7, 0xAB, 0xAF, 0xB2] ++
  [0xB3, 0xB7, 0xBB, 0xBF, 0xC2, 0xC3, 0xC7, 0xCB, 0xCF, 0xD2, 0xD3, 0xD4, 0xD7, 0xDA, 0xDB] ++
  [0xDC, 0xDF, 0xE2, 0xE3, 0xE7, 0xEB, 0xEF, 0xF2, 0xF3, 0xF4, 0xF7, 0xFA, 0xFB, 0xFC, 0xFF]

/-- An instruction is well formed when the opcode map has a row for it: its mode is one that the map pairs with its
mnemonic, and an ILLEGAL entry holds one of the 105 bytes (R85, R116). -/
def Instr.wf (i : Instr) : Bool :=
  i.mnemonic.modes.contains i.operand.mode &&
    match i with
    | .illegal opcode => illegalBytes.contains opcode
    | _ => true

end Sys2Proof
end

