-- ==== Sys2Proof/Decode.lean ====
section
/-! DEFINITION. The decoder, written from the opcode map in opcode order (spec 30_encoding.md R83), and the encoder, written
from the same map by mnemonic (R84).  The opcode bytes, cycles and penalty flags are the spec's, which has them
"from general knowledge" (93_implementation_defined.md G1, G4): log entries 1 and 3. -/

namespace Sys2Proof

/-! ### Byte order -/

/-- The 16-bit value `{h, l}` of two bytes (R12). -/
def wordOf (h l : Byte) : Word := h ++ l

/-- `lo(w) = w[7:0]` (R12). -/
def loByte (w : Word) : Byte := w.extractLsb' 0 8

/-- `hi(w) = w[15:8]` (R12). -/
def hiByte (w : Word) : Byte := w.extractLsb' 8 8

/-! ### The descriptor table -/

/-- A row of the opcode map: the descriptor that an opcode byte selects (R82, R86). -/
structure Row where
  opcode : Byte
  mnemonic : Mnemonic
  mode : Mode
  /-- `base_cycles`. -/
  cycles : Nat
  /-- `penalty_on_page_cross`. -/
  penalty : Bool
deriving DecidableEq, Repr

/-- The official opcodes 0x00 to 0x0F (R83). -/
def opcodeRows0 : List Row := [
  ⟨0x00, .brk, .imp, 7, false⟩,
  ⟨0x01, .ora, .inx, 6, false⟩,
  ⟨0x05, .ora, .zer, 3, false⟩,
  ⟨0x06, .asl, .zer, 5, false⟩,
  ⟨0x08, .php, .imp, 3, false⟩,
  ⟨0x09, .ora, .imm, 2, false⟩,
  ⟨0x0A, .asl, .acc, 2, false⟩,
  ⟨0x0D, .ora, .abs, 4, false⟩,
  ⟨0x0E, .asl, .abs, 6, false⟩]

/-- The official opcodes 0x10 to 0x1F (R83). -/
def opcodeRows1 : List Row := [
  ⟨0x10, .bpl, .rel, 2, false⟩,
  ⟨0x11, .ora, .iny, 5, true⟩,
  ⟨0x15, .ora, .zex, 4, false⟩,
  ⟨0x16, .asl, .zex, 6, false⟩,
  ⟨0x18, .clc, .imp, 2, false⟩,
  ⟨0x19, .ora, .aby, 4, true⟩,
  ⟨0x1D, .ora, .abx, 4, true⟩,
  ⟨0x1E, .asl, .abx, 7, false⟩]

/-- The official opcodes 0x20 to 0x2F (R83). -/
def opcodeRows2 : List Row := [
  ⟨0x20, .jsr, .abs, 6, false⟩,
  ⟨0x21, .and, .inx, 6, false⟩,
  ⟨0x24, .bit, .zer, 3, false⟩,
  ⟨0x25, .and, .zer, 3, false⟩,
  ⟨0x26, .rol, .zer, 5, false⟩,
  ⟨0x28, .plp, .imp, 4, false⟩,
  ⟨0x29, .and, .imm, 2, false⟩,
  ⟨0x2A, .rol, .acc, 2, false⟩,
  ⟨0x2C, .bit, .abs, 4, false⟩,
  ⟨0x2D, .and, .abs, 4, false⟩,
  ⟨0x2E, .rol, .abs, 6, false⟩]

/-- The official opcodes 0x30 to 0x3F (R83). -/
def opcodeRows3 : List Row := [
  ⟨0x30, .bmi, .rel, 2, false⟩,
  ⟨0x31, .and, .iny, 5, true⟩,
  ⟨0x35, .and, .zex, 4, false⟩,
  ⟨0x36, .rol, .zex, 6, false⟩,
  ⟨0x38, .sec, .imp, 2, false⟩,
  ⟨0x39, .and, .aby, 4, true⟩,
  ⟨0x3D, .and, .abx, 4, true⟩,
  ⟨0x3E, .rol, .abx, 7, false⟩]

/-- The official opcodes 0x40 to 0x4F (R83). -/
def opcodeRows4 : List Row := [
  ⟨0x40, .rti, .imp, 6, false⟩,
  ⟨0x41, .eor, .inx, 6, false⟩,
  ⟨0x45, .eor, .zer, 3, false⟩,
  ⟨0x46, .lsr, .zer, 5, false⟩,
  ⟨0x48, .pha, .imp, 3, false⟩,
  ⟨0x49, .eor, .imm, 2, false⟩,
  ⟨0x4A, .lsr, .acc, 2, false⟩,
  ⟨0x4C, .jmp, .abs, 3, false⟩,
  ⟨0x4D, .eor, .abs, 4, false⟩,
  ⟨0x4E, .lsr, .abs, 6, false⟩]

/-- The official opcodes 0x50 to 0x5F (R83). -/
def opcodeRows5 : List Row := [
  ⟨0x50, .bvc, .rel, 2, false⟩,
  ⟨0x51, .eor, .iny, 5, true⟩,
  ⟨0x55, .eor, .zex, 4, false⟩,
  ⟨0x56, .lsr, .zex, 6, false⟩,
  ⟨0x58, .cli, .imp, 2, false⟩,
  ⟨0x59, .eor, .aby, 4, true⟩,
  ⟨0x5D, .eor, .abx, 4, true⟩,
  ⟨0x5E, .lsr, .abx, 7, false⟩]

/-- The official opcodes 0x60 to 0x6F (R83). -/
def opcodeRows6 : List Row := [
  ⟨0x60, .rts, .imp, 6, false⟩,
  ⟨0x61, .adc, .inx, 6, false⟩,
  ⟨0x65, .adc, .zer, 3, false⟩,
  ⟨0x66, .ror, .zer, 5, false⟩,
  ⟨0x68, .pla, .imp, 4, false⟩,
  ⟨0x69, .adc, .imm, 2, false⟩,
  ⟨0x6A, .ror, .acc, 2, false⟩,
  ⟨0x6C, .jmp, .abi, 5, false⟩,
  ⟨0x6D, .adc, .abs, 4, false⟩,
  ⟨0x6E, .ror, .abs, 6, false⟩]

/-- The official opcodes 0x70 to 0x7F (R83). -/
def opcodeRows7 : List Row := [
  ⟨0x70, .bvs, .rel, 2, false⟩,
  ⟨0x71, .adc, .iny, 5, true⟩,
  ⟨0x75, .adc, .zex, 4, false⟩,
  ⟨0x76, .ror, .zex, 6, false⟩,
  ⟨0x78, .sei, .imp, 2, false⟩,
  ⟨0x79, .adc, .aby, 4, true⟩,
  ⟨0x7D, .adc, .abx, 4, true⟩,
  ⟨0x7E, .ror, .abx, 7, false⟩]

/-- The official opcodes 0x80 to 0x8F (R83). -/
def opcodeRows8 : List Row := [
  ⟨0x81, .sta, .inx, 6, false⟩,
  ⟨0x84, .sty, .zer, 3, false⟩,
  ⟨0x85, .sta, .zer, 3, false⟩,
  ⟨0x86, .stx, .zer, 3, false⟩,
  ⟨0x88, .dey, .imp, 2, false⟩,
  ⟨0x8A, .txa, .imp, 2, false⟩,
  ⟨0x8C, .sty, .abs, 4, false⟩,
  ⟨0x8D, .sta, .abs, 4, false⟩,
  ⟨0x8E, .stx, .abs, 4, false⟩]

/-- The official opcodes 0x90 to 0x9F (R83). -/
def opcodeRows9 : List Row := [
  ⟨0x90, .bcc, .rel, 2, false⟩,
  ⟨0x91, .sta, .iny, 6, false⟩,
  ⟨0x94, .sty, .zex, 4, false⟩,
  ⟨0x95, .sta, .zex, 4, false⟩,
  ⟨0x96, .stx, .zey, 4, false⟩,
  ⟨0x98, .tya, .imp, 2, false⟩,
  ⟨0x99, .sta, .aby, 5, false⟩,
  ⟨0x9A, .txs, .imp, 2, false⟩,
  ⟨0x9D, .sta, .abx, 5, false⟩]

/-- The official opcodes 0xA0 to 0xAF (R83). -/
def opcodeRowsA : List Row := [
  ⟨0xA0, .ldy, .imm, 2, false⟩,
  ⟨0xA1, .lda, .inx, 6, false⟩,
  ⟨0xA2, .ldx, .imm, 2, false⟩,
  ⟨0xA4, .ldy, .zer, 3, false⟩,
  ⟨0xA5, .lda, .zer, 3, false⟩,
  ⟨0xA6, .ldx, .zer, 3, false⟩,
  ⟨0xA8, .tay, .imp, 2, false⟩,
  ⟨0xA9, .lda, .imm, 2, false⟩,
  ⟨0xAA, .tax, .imp, 2, false⟩,
  ⟨0xAC, .ldy, .abs, 4, false⟩,
  ⟨0xAD, .lda, .abs, 4, false⟩,
  ⟨0xAE, .ldx, .abs, 4, false⟩]

/-- The official opcodes 0xB0 to 0xBF (R83). -/
def opcodeRowsB : List Row := [
  ⟨0xB0, .bcs, .rel, 2, false⟩,
  ⟨0xB1, .lda, .iny, 5, true⟩,
  ⟨0xB4, .ldy, .zex, 4, false⟩,
  ⟨0xB5, .lda, .zex, 4, false⟩,
  ⟨0xB6, .ldx, .zey, 4, false⟩,
  ⟨0xB8, .clv, .imp, 2, false⟩,
  ⟨0xB9, .lda, .aby, 4, true⟩,
  ⟨0xBA, .tsx, .imp, 2, false⟩,
  ⟨0xBC, .ldy, .abx, 4, true⟩,
  ⟨0xBD, .lda, .abx, 4, true⟩,
  ⟨0xBE, .ldx, .aby, 4, true⟩]

/-- The official opcodes 0xC0 to 0xCF (R83). -/
def opcodeRowsC : List Row := [
  ⟨0xC0, .cpy, .imm, 2, false⟩,
  ⟨0xC1, .cmp, .inx, 6, false⟩,
  ⟨0xC4, .cpy, .zer, 3, false⟩,
  ⟨0xC5, .cmp, .zer, 3, false⟩,
  ⟨0xC6, .dec, .zer, 5, false⟩,
  ⟨0xC8, .iny, .imp, 2, false⟩,
  ⟨0xC9, .cmp, .imm, 2, false⟩,
  ⟨0xCA, .dex, .imp, 2, false⟩,
  ⟨0xCC, .cpy, .abs, 4, false⟩,
  ⟨0xCD, .cmp, .abs, 4, false⟩,
  ⟨0xCE, .dec, .abs, 6, false⟩]

/-- The official opcodes 0xD0 to 0xDF (R83). -/
def opcodeRowsD : List Row := [
  ⟨0xD0, .bne, .rel, 2, false⟩,
  ⟨0xD1, .cmp, .iny, 5, true⟩,
  ⟨0xD5, .cmp, .zex, 4, false⟩,
  ⟨0xD6, .dec, .zex, 6, false⟩,
  ⟨0xD8, .cld, .imp, 2, false⟩,
  ⟨0xD9, .cmp, .aby, 4, true⟩,
  ⟨0xDD, .cmp, .abx, 4, true⟩,
  ⟨0xDE, .dec, .abx, 7, false⟩]

/-- The official opcodes 0xE0 to 0xEF (R83). -/
def opcodeRowsE : List Row := [
  ⟨0xE0, .cpx, .imm, 2, false⟩,
  ⟨0xE1, .sbc, .inx, 6, false⟩,
  ⟨0xE4, .cpx, .zer, 3, false⟩,
  ⟨0xE5, .sbc, .zer, 3, false⟩,
  ⟨0xE6, .inc, .zer, 5, false⟩,
  ⟨0xE8, .inx, .imp, 2, false⟩,
  ⟨0xE9, .sbc, .imm, 2, false⟩,
  ⟨0xEA, .nop, .imp, 2, false⟩,
  ⟨0xEC, .cpx, .abs, 4, false⟩,
  ⟨0xED, .sbc, .abs, 4, false⟩,
  ⟨0xEE, .inc, .abs, 6, false⟩]

/-- The official opcodes 0xF0 to 0xFF (R83). -/
def opcodeRowsF : List Row := [
  ⟨0xF0, .beq, .rel, 2, false⟩,
  ⟨0xF1, .sbc, .iny, 5, true⟩,
  ⟨0xF5, .sbc, .zex, 4, false⟩,
  ⟨0xF6, .inc, .zex, 6, false⟩,
  ⟨0xF8, .sed, .imp, 2, false⟩,
  ⟨0xF9, .sbc, .aby, 4, true⟩,
  ⟨0xFD, .sbc, .abx, 4, true⟩,
  ⟨0xFE, .inc, .abx, 7, false⟩]

/-- The 151 official opcodes, in opcode order (R83). -/
def opcodeTable : List Row :=
  opcodeRows0 ++ opcodeRows1 ++ opcodeRows2 ++ opcodeRows3 ++
  opcodeRows4 ++ opcodeRows5 ++ opcodeRows6 ++ opcodeRows7 ++
  opcodeRows8 ++ opcodeRows9 ++ opcodeRowsA ++ opcodeRowsB ++
  opcodeRowsC ++ opcodeRowsD ++ opcodeRowsE ++ opcodeRowsF

/-- The descriptor of an ILLEGAL entry: mode IMP, no cycles, no penalty (R226; the spec's D12). -/
def illegalRow (opcode : Byte) : Row := ⟨opcode, .illegal, .imp, 0, false⟩

/-- `Table[opcode]`: every byte selects an entry, "opcodes not defined in the official ISA default to an ILLEGAL trap"
(R82, R85). -/
def descriptor (opcode : Byte) : Row :=
  (opcodeTable.find? fun r => r.opcode == opcode).getD (illegalRow opcode)

/-- The number of operand bytes of a mode (R80). -/
def Mode.operandBytes : Mode → Nat
  | .acc | .imp => 0
  | .imm | .zer | .zex | .zey | .inx | .iny | .rel => 1
  | .abs | .abx | .aby | .abi => 2

/-- The operand a mode reads from the operand bytes `b1`, `b2`, low byte first; a mode ignores the bytes it does not
have (R80, R81). -/
def Mode.operand (m : Mode) (b1 b2 : Byte) : Operand :=
  match m with
  | .acc => .acc
  | .imp => .imp
  | .imm => .imm b1
  | .zer => .zer b1
  | .zex => .zex b1
  | .zey => .zey b1
  | .abs => .abs (wordOf b2 b1)
  | .abx => .abx (wordOf b2 b1)
  | .aby => .aby (wordOf b2 b1)
  | .abi => .abi (wordOf b2 b1)
  | .inx => .inx b1
  | .iny => .iny b1
  | .rel => .rel b1

/-- The instruction of a mnemonic with an operand; `opcode` is kept by an ILLEGAL entry only (R82). -/
def Mnemonic.instr (m : Mnemonic) (opcode : Byte) (o : Operand) : Instr :=
  match m with
  | .lda => .lda o
  | .ldx => .ldx o
  | .ldy => .ldy o
  | .sta => .sta o
  | .stx => .stx o
  | .sty => .sty o
  | .tax => .tax
  | .tay => .tay
  | .txa => .txa
  | .tya => .tya
  | .tsx => .tsx
  | .txs => .txs
  | .adc => .adc o
  | .sbc => .sbc o
  | .and => .and o
  | .eor => .eor o
  | .ora => .ora o
  | .asl => .asl o
  | .lsr => .lsr o
  | .rol => .rol o
  | .ror => .ror o
  | .bit => .bit o
  | .cmp => .cmp o
  | .cpx => .cpx o
  | .cpy => .cpy o
  | .inc => .inc o
  | .dec => .dec o
  | .inx => .inx
  | .iny => .iny
  | .dex => .dex
  | .dey => .dey
  | .bcc => .bcc o
  | .bcs => .bcs o
  | .beq => .beq o
  | .bne => .bne o
  | .bmi => .bmi o
  | .bpl => .bpl o
  | .bvc => .bvc o
  | .bvs => .bvs o
  | .jmp => .jmp o
  | .jsr => .jsr o
  | .rts => .rts
  | .rti => .rti
  | .brk => .brk
  | .clc => .clc
  | .sec => .sec
  | .cld => .cld
  | .sed => .sed
  | .cli => .cli
  | .sei => .sei
  | .clv => .clv
  | .pha => .pha
  | .php => .php
  | .pla => .pla
  | .plp => .plp
  | .nop => .nop
  | .illegal => .illegal opcode

/-- The instruction that a row and the operand bytes spell. -/
def Row.instr (r : Row) (b1 b2 : Byte) : Instr := r.mnemonic.instr r.opcode (r.mode.operand b1 b2)

/-- Why bytes do not decode: there is no opcode byte, or an operand byte of the named instruction is missing.  Every opcode
byte itself decodes (R82). -/
inductive DecodeError where
  | noOpcode
  | missingOperand (mnemonic : Mnemonic)
deriving DecidableEq, Repr

/-- The decoder: the instruction at the head of a list of bytes, and the bytes after it (R80 to R82, R87). -/
def decode : List Byte → Except DecodeError (Instr × List Byte)
  | [] => .error .noOpcode
  | opcode :: rest =>
    let r := descriptor opcode
    match r.mode.operandBytes, rest with
    | 0, _ => .ok (r.instr 0 0, rest)
    | 1, b1 :: rest => .ok (r.instr b1 0, rest)
    | _, b1 :: b2 :: rest => .ok (r.instr b1 b2, rest)
    | _, _ => .error (.missingOperand r.mnemonic)

/-- The bytes of an instruction of `nbits` bits whose bits are `w`, as the opcode table numbers them: the first byte is
bits 7 to 0, the next bits 15 to 8.  Bits above `nbits` are 0, up to the longest instruction (3 bytes). -/
def tableBytes (nbits w : Nat) : List Byte :=
  let v := w % 2 ^ nbits
  [BitVec.ofNat 8 v, BitVec.ofNat 8 (v / 2 ^ 8), BitVec.ofNat 8 (v / 2 ^ 16)]

/-- The instruction the decoder reads from a word of the opcode table. -/
def decodeTableWord (nbits w : Nat) : Option Instr :=
  match decode (tableBytes nbits w) with
  | .ok (i, _) => some i
  | .error _ => none

/-! ### The encoder -/

/-- The opcode byte that a mnemonic's line of R84 gives for a mode. -/
def pickOpcode (m : Mode) (line : List (Mode × Byte)) : Option Byte := line.lookup m

/-- The opcode byte of an instruction, by mnemonic and mode (R84); an ILLEGAL entry is its own byte if that byte is one of
the 105 (R85). -/
def Instr.opcode? (i : Instr) : Option Byte :=
  match i with
  | .lda o => pickOpcode o.mode [(.inx, 0xA1), (.zer, 0xA5), (.imm, 0xA9), (.abs, 0xAD),
      (.iny, 0xB1), (.zex, 0xB5), (.aby, 0xB9), (.abx, 0xBD)]
  | .ldx o => pickOpcode o.mode [(.imm, 0xA2), (.zer, 0xA6), (.abs, 0xAE), (.zey, 0xB6), (.aby, 0xBE)]
  | .ldy o => pickOpcode o.mode [(.imm, 0xA0), (.zer, 0xA4), (.abs, 0xAC), (.zex, 0xB4), (.abx, 0xBC)]
  | .sta o => pickOpcode o.mode [(.inx, 0x81), (.zer, 0x85), (.abs, 0x8D), (.iny, 0x91),
      (.zex, 0x95), (.aby, 0x99), (.abx, 0x9D)]
  | .stx o => pickOpcode o.mode [(.zer, 0x86), (.abs, 0x8E), (.zey, 0x96)]
  | .sty o => pickOpcode o.mode [(.zer, 0x84), (.abs, 0x8C), (.zex, 0x94)]
  | .tax => some 0xAA
  | .tay => some 0xA8
  | .txa => some 0x8A
  | .tya => some 0x98
  | .tsx => some 0xBA
  | .txs => some 0x9A
  | .adc o => pickOpcode o.mode [(.inx, 0x61), (.zer, 0x65), (.imm, 0x69), (.abs, 0x6D),
      (.iny, 0x71), (.zex, 0x75), (.aby, 0x79), (.abx, 0x7D)]
  | .sbc o => pickOpcode o.mode [(.inx, 0xE1), (.zer, 0xE5), (.imm, 0xE9), (.abs, 0xED),
      (.iny, 0xF1), (.zex, 0xF5), (.aby, 0xF9), (.abx, 0xFD)]
  | .and o => pickOpcode o.mode [(.inx, 0x21), (.zer, 0x25), (.imm, 0x29), (.abs, 0x2D),
      (.iny, 0x31), (.zex, 0x35), (.aby, 0x39), (.abx, 0x3D)]
  | .eor o => pickOpcode o.mode [(.inx, 0x41), (.zer, 0x45), (.imm, 0x49), (.abs, 0x4D),
      (.iny, 0x51), (.zex, 0x55), (.aby, 0x59), (.abx, 0x5D)]
  | .ora o => pickOpcode o.mode [(.inx, 0x01), (.zer, 0x05), (.imm, 0x09), (.abs, 0x0D),
      (.iny, 0x11), (.zex, 0x15), (.aby, 0x19), (.abx, 0x1D)]
  | .asl o => pickOpcode o.mode [(.zer, 0x06), (.acc, 0x0A), (.abs, 0x0E), (.zex, 0x16), (.abx, 0x1E)]
  | .lsr o => pickOpcode o.mode [(.zer, 0x46), (.acc, 0x4A), (.abs, 0x4E), (.zex, 0x56), (.abx, 0x5E)]
  | .rol o => pickOpcode o.mode [(.zer, 0x26), (.acc, 0x2A), (.abs, 0x2E), (.zex, 0x36), (.abx, 0x3E)]
  | .ror o => pickOpcode o.mode [(.zer, 0x66), (.acc, 0x6A), (.abs, 0x6E), (.zex, 0x76), (.abx, 0x7E)]
  | .bit o => pickOpcode o.mode [(.zer, 0x24), (.abs, 0x2C)]
  | .cmp o => pickOpcode o.mode [(.inx, 0xC1), (.zer, 0xC5), (.imm, 0xC9), (.abs, 0xCD),
      (.iny, 0xD1), (.zex, 0xD5), (.aby, 0xD9), (.abx, 0xDD)]
  | .cpx o => pickOpcode o.mode [(.imm, 0xE0), (.zer, 0xE4), (.abs, 0xEC)]
  | .cpy o => pickOpcode o.mode [(.imm, 0xC0), (.zer, 0xC4), (.abs, 0xCC)]
  | .inc o => pickOpcode o.mode [(.zer, 0xE6), (.abs, 0xEE), (.zex, 0xF6), (.abx, 0xFE)]
  | .dec o => pickOpcode o.mode [(.zer, 0xC6), (.abs, 0xCE), (.zex, 0xD6), (.abx, 0xDE)]
  | .inx => some 0xE8
  | .iny => some 0xC8
  | .dex => some 0xCA
  | .dey => some 0x88
  | .bcc o => pickOpcode o.mode [(.rel, 0x90)]
  | .bcs o => pickOpcode o.mode [(.rel, 0xB0)]
  | .beq o => pickOpcode o.mode [(.rel, 0xF0)]
  | .bne o => pickOpcode o.mode [(.rel, 0xD0)]
  | .bmi o => pickOpcode o.mode [(.rel, 0x30)]
  | .bpl o => pickOpcode o.mode [(.rel, 0x10)]
  | .bvc o => pickOpcode o.mode [(.rel, 0x50)]
  | .bvs o => pickOpcode o.mode [(.rel, 0x70)]
  | .jmp o => pickOpcode o.mode [(.abs, 0x4C), (.abi, 0x6C)]
  | .jsr o => pickOpcode o.mode [(.abs, 0x20)]
  | .rts => some 0x60
  | .rti => some 0x40
  | .brk => some 0x00
  | .clc => some 0x18
  | .sec => some 0x38
  | .cld => some 0xD8
  | .sed => some 0xF8
  | .cli => some 0x58
  | .sei => some 0x78
  | .clv => some 0xB8
  | .pha => some 0x48
  | .php => some 0x08
  | .pla => some 0x68
  | .plp => some 0x28
  | .nop => some 0xEA
  | .illegal opcode => if illegalBytes.contains opcode then some opcode else none

/-- The operand bytes of an operand, low byte first (R80, R81). -/
def Operand.bytes : Operand → List Byte
  | .acc | .imp => []
  | .imm b | .zer b | .zex b | .zey b | .inx b | .iny b | .rel b => [b]
  | .abs w | .abx w | .aby w | .abi w => [loByte w, hiByte w]

/-- The encoder: the bytes of a well-formed instruction (R80, R84); nothing for an ill-formed one, which the opcode map has
no byte for (R116). -/
def encode (i : Instr) : List Byte :=
  match i.opcode? with
  | some opcode => opcode :: i.operand.bytes
  | none => []

end Sys2Proof
end

