-- ==== Sys2Proof/Machine/Flags.lean ====
section
/-! DEFINITION. The status register P as a byte with named bits (spec 10_state.md R24 to R28), and every computation that
yields flags: addition and subtraction, binary and decimal (42_arithmetic.md), shifts and rotates (43_logical_shift_bit.md).
All are functions of bytes; none mentions the state. -/

namespace Sys2Proof.Machine

/-! ### The bits of P (R24) -/

/-! The number of each flag's bit in P. -/

abbrev flagN : Nat := 7
abbrev flagV : Nat := 6
abbrev flagB : Nat := 4
abbrev flagD : Nat := 3
abbrev flagI : Nat := 2
abbrev flagZ : Nat := 1
abbrev flagC : Nat := 0

/-- `P.f` (R13). -/
def getFlag (f : Nat) (p : Byte) : Bool := p.getLsbD f

/-- `P.f <- v`: writes one bit and leaves the others (R13). -/
def putFlag (f : Nat) (v : Bool) (p : Byte) : Byte :=
  if v then p ||| (1#8 <<< f) else p &&& ~~~(1#8 <<< f)

/-- `SetNZ(v)`: `P.N <- v[7]; P.Z <- (v == 0)` (R14). -/
def putNZ (v : Byte) (p : Byte) : Byte := putFlag flagZ (v == 0) (putFlag flagN (v.getLsbD 7) p)

/-- `SetP(v)`, loading P from a pulled byte: bit 5 is forced, bit 4 keeps its stored value, the six flags come from the
byte (R27). -/
def loadedP (v p : Byte) : Byte := (v &&& 0xCF) ||| (p &&& 0x10) ||| 0x20

/-- `PushedP(software)`, the byte pushed for P: bit 5 set, B set for PHP and BRK and clear for NMI and IRQ (R28). -/
def pushedP (software : Bool) (p : Byte) : Byte := if software then p ||| 0x30 else (p &&& 0xEF) ||| 0x20

/-! ### Addition and subtraction -/

/-- A result with the four flags that ADC and SBC write (R140). -/
structure AluResult where
  r : Byte
  n : Bool
  v : Bool
  z : Bool
  c : Bool
deriving DecidableEq, Repr

/-- AdcBinary (R142). -/
def adcBinary (a m : Byte) (c : Bool) : AluResult :=
  let s := a.toNat + m.toNat + c.toNat
  let r := BitVec.ofNat 8 s
  { r := r
    n := r.getLsbD 7
    v := (~~~(a ^^^ m) &&& (a ^^^ r) &&& 0x80) != 0
    z := r == 0
    c := decide (s > 255) }

/-- AdcDecimal (R143; the fix-up arithmetic rests on the spec's D15, log entry 2): N and V from the binary intermediate, Z
and C from the adjusted result. -/
def adcDecimal (a m : Byte) (c : Bool) : AluResult :=
  let rb := BitVec.ofNat 8 (a.toNat + m.toNat + c.toNat)
  let al := (a &&& 0x0F).toNat + (m &&& 0x0F).toNat + c.toNat
  let al := if al > 9 then (al + 6) % 16 + 0x10 else al
  let t := (a &&& 0xF0).toNat + (m &&& 0xF0).toNat + al
  let t := if t ≥ 0xA0 then t + 0x60 else t
  let r := BitVec.ofNat 8 t
  { r := r
    n := rb.getLsbD 7
    v := (~~~(a ^^^ m) &&& (a ^^^ rb) &&& 0x80) != 0
    z := r == 0
    c := decide (t ≥ 0x100) }

/-- SbcBinary (R145). -/
def sbcBinary (a m : Byte) (c : Bool) : AluResult :=
  let d : Int := (a.toNat : Int) - (m.toNat : Int) - (1 - (c.toNat : Int))
  let r := BitVec.ofInt 8 d
  { r := r
    n := r.getLsbD 7
    v := ((a ^^^ m) &&& (a ^^^ r) &&& 0x80) != 0
    z := r == 0
    c := decide (0 ≤ d) }

/-- SbcDecimal (R146; the fix-up arithmetic rests on the spec's D15, log entry 2). -/
def sbcDecimal (a m : Byte) (c : Bool) : AluResult :=
  let rb := BitVec.ofInt 8 ((a.toNat : Int) - (m.toNat : Int) - (1 - (c.toNat : Int)))
  let al : Int := ((a &&& 0x0F).toNat : Int) - ((m &&& 0x0F).toNat : Int) + (c.toNat : Int) - 1
  let al : Int := if al < 0 then (al - 6) % 16 - 0x10 else al
  let t : Int := ((a &&& 0xF0).toNat : Int) - ((m &&& 0xF0).toNat : Int) + al
  let r := BitVec.ofInt 8 (if t < 0 then t - 0x60 else t)
  { r := r
    n := rb.getLsbD 7
    v := ((a ^^^ m) &&& (a ^^^ rb) &&& 0x80) != 0
    z := r == 0
    c := decide (0 ≤ t) }

/-- The function of ADC, selected by D at the time the instruction executes (R140, R141). -/
def adcResult (decimal : Bool) (a m : Byte) (c : Bool) : AluResult :=
  if decimal then adcDecimal a m c else adcBinary a m c

/-- The function of SBC, selected by D (R140, R144). -/
def sbcResult (decimal : Bool) (a m : Byte) (c : Bool) : AluResult :=
  if decimal then sbcDecimal a m c else sbcBinary a m c

/-- P with the four flags of a result written (R140). -/
def putNVZC (r : AluResult) (p : Byte) : Byte :=
  putFlag flagC r.c (putFlag flagZ r.z (putFlag flagV r.v (putFlag flagN r.n p)))

/-- P after Compare(reg, m): C is "no borrow", N and Z come from the low byte of the difference (R170). -/
def comparedP (reg m p : Byte) : Byte := putFlag flagC (decide (m.toNat ≤ reg.toNat)) (putNZ (reg - m) p)

/-- P after BIT: Z from the conjunction, N and V from bits 7 and 6 of the memory byte (R158). -/
def bitTestedP (a m p : Byte) : Byte :=
  putFlag flagV (m.getLsbD 6) (putFlag flagN (m.getLsbD 7) (putFlag flagZ ((a &&& m) == 0) p))

/-! ### Shifts and rotates: the result and the new carry (R154 to R157) -/

/-- ASL (R154). -/
def aslOf (v : Byte) (_c : Bool) : Byte × Bool := (v <<< 1, v.getLsbD 7)

/-- LSR (R155). -/
def lsrOf (v : Byte) (_c : Bool) : Byte × Bool := (v >>> 1, v.getLsbD 0)

/-- ROL: the old carry enters bit 0 (R156). -/
def rolOf (v : Byte) (c : Bool) : Byte × Bool := ((v <<< 1) ||| (if c then 0x01 else 0x00), v.getLsbD 7)

/-- ROR: the old carry enters bit 7 (R157). -/
def rorOf (v : Byte) (c : Bool) : Byte × Bool := ((v >>> 1) ||| (if c then 0x80 else 0x00), v.getLsbD 0)

/-- P after a shift or rotate: C is the bit shifted out, N and Z come from the result (R150). -/
def shiftedP (r : Byte × Bool) (p : Byte) : Byte := putNZ r.1 (putFlag flagC r.2 p)

end Sys2Proof.Machine
end

