-- ==== Sys2Proof/Config.lean ====
section
/-! DEFINITION. The parameters of the machine (spec 00_scope.md R8, R9) and its one free value (20_memory.md R66). -/

namespace Sys2Proof

/-- The parameters an implementation fixes.  A state carries them (`State.cfg`), no step writes them, and a statement
about every state therefore holds for every choice of them. -/
structure Config where
  /-- RESET_A, default 0x00 (R8). -/
  resetA : Byte := 0x00
  /-- RESET_X, default 0x00 (R8). -/
  resetX : Byte := 0x00
  /-- RESET_Y, default 0x00 (R8). -/
  resetY : Byte := 0x00
  /-- RESET_P, default 0x00: the status word after reset is this value or-ed with 0x30 (R8). -/
  resetP : Byte := 0x00
  /-- CMOS_JMP_FIX, default false: the page-wrap bug of the indirect jump is reproduced (R9, R110). -/
  cmosJmpFix : Bool := false
  /-- UNDOCUMENTED_OPCODES: the spec fixes it false, and a model must refuse the value true (R9; log entry 9). -/
  undocumentedOpcodes : Bool := false
deriving DecidableEq, Repr

/-- The parameters at their defaults (R8, R9). -/
def Config.standard : Config := { }

/-- FREE VALUE (log entry 6).  The byte the `n`-th external read answers where the environment's queue of answers has
run out: "an arbitrary byte" (R66, U5).  It has no body, so nothing can be proved of its value. -/
opaque Config.freeByte : Nat → Byte

end Sys2Proof
end

