-- ==== Sys2Proof/Machine/State.lean ====
section
/-! DEFINITION. The state of the machine as plain data: the registers of the core (spec 10_state.md), the inputs and the bus
that the environment owns (20_memory.md, 60_exceptions.md), the tick output and the parameters; the reasons a step can stop;
and the state after reset. -/

namespace Sys2Proof.Machine

/-- The NMI sequencer's states (R35, R254). -/
inductive NmiState where
  /-- No NMI is latched and none is being serviced. -/
  | armed
  /-- An edge has been latched and not yet serviced. -/
  | pending
  /-- Service has begun and no RTI has executed since. -/
  | inService
deriving DecidableEq, Repr

/-- The state elements of the core, every one that the spec's table names (10_state.md section 1). -/
structure Registers where
  /-- A, the accumulator (R20). -/
  a : Byte
  /-- X, an index register (R20). -/
  x : Byte
  /-- Y, an index register (R20). -/
  y : Byte
  /-- SP, the offset into page 1 (R22). -/
  sp : Byte
  /-- PC (R30). -/
  pc : Word
  /-- P, the status register: N V 1 B D I Z C from bit 7 to bit 0 (R24). -/
  p : Byte
  /-- IR, the instruction register (R32). -/
  ir : Byte
  /-- CYC, the cycle counter (R33). -/
  cyc : Cycles
  /-- HALT, the illegal-opcode latch (R34). -/
  halt : Bool
  /-- NMI_STATE (R35). -/
  nmiState : NmiState
  /-- NMI_PREV, the level of the NMI input as the core last saw it (R35). -/
  nmiPrev : Bool
  /-- CROSSED, the page-cross record, written by every mode evaluation (R36). -/
  crossed : Bool
deriving DecidableEq, Repr

/-- Memory: the bytes that differ from what an unlisted address reads as, at strictly rising addresses (`Memory.wf`). -/
abbrev Memory := List Host.Cell

/-- A bus event (R53). -/
inductive BusEvent where
  | read (address : Word) (value : Byte)
  | write (address : Word) (value : Byte)
deriving DecidableEq, Repr

/-- What answers at an address that is not plain memory (R57, R60, R66; log entry 4). -/
inductive RegionKind where
  /-- Read-only or write-protected: a write is dropped silently. -/
  | rom
  /-- A peripheral or an unmapped address: the environment answers each read. -/
  | external
deriving DecidableEq, Repr

/-- A region of the platform: `size` addresses from `base` up. -/
structure Region where
  base : Nat
  size : Nat
  kind : RegionKind
deriving DecidableEq, Repr

/-- The bus, which the spec puts outside the core and makes a parameter of the model (R50): its read oracle and its write
sink as plain data (log entry 4). -/
structure Bus where
  /-- What plain and read-only memory hold. -/
  mem : Memory
  /-- The addresses that are not plain memory; with none this is the platform RAM64 (R67). -/
  regions : List Region
  /-- The bytes the environment will answer to the coming external reads, in order (log entry 6). -/
  answers : List Byte
  /-- How many external reads found no answer queued: the index of the next free value (log entry 6). -/
  freeReads : Nat
  /-- The event history, newest event first (R53; log entry 17). -/
  events : List BusEvent
deriving DecidableEq, Repr

/-- A move of the environment, made between two steps (R11, R18). -/
inductive Move where
  /-- Drive the IRQ input to a level (R252). -/
  | irqLine (asserted : Bool)
  /-- Drive the NMI input to a level; each presented level goes through the edge detector (R253). -/
  | nmiLine (asserted : Bool)
  /-- Drive the power-off input (R238). -/
  | powerOff (asserted : Bool)
  /-- Call reset (R281). -/
  | reset
  /-- Change what memory holds at an address (R18). -/
  | poke (address : Word) (value : Byte)
  /-- Queue a byte that an external read will answer (R57). -/
  | answer (value : Byte)
deriving DecidableEq, Repr

/-- The inputs of the core, owned by the environment. -/
structure Inputs where
  /-- `irq_asserted`, the level of the IRQ input (R252). -/
  irq : Bool
  /-- `nmi_asserted`, the level of the NMI input (R252). -/
  nmi : Bool
  /-- The power-off input (R238). -/
  powerOff : Bool
  /-- The moves the environment makes at the coming step boundaries, one list for each (log entry 13). -/
  moves : List (List Move)
deriving DecidableEq, Repr

/-- The state of the machine. -/
structure State where
  regs : Registers
  bus : Bus
  inputs : Inputs
  /-- The parameters (R8, R9); no step writes them. -/
  cfg : Config
  /-- Ticks emitted since the last reset (R235; log entry 16). -/
  ticks : Nat
deriving DecidableEq, Repr

/-- Faults.  There are none: "the core never aborts or throws" (R15), a read or a write never faults (R66), and the events
that divert control or stop the core are next states (R250). -/
inductive Fault where
deriving DecidableEq, Repr

/-- Why a step has no meaning. -/
inductive Refusal where
  /-- Raised by an arm of `exec` whose instruction has no meaning yet; safe.  No arm is left so. -/
  | notModelled (mnemonic : String)
  /-- Raised by `stepOnce` for the parameter UNDOCUMENTED_OPCODES set true, which "a model must refuse" because no source
  gives the semantics (R9); safe. -/
  | undocumentedOpcodes
deriving DecidableEq, Repr

/-- What a step or an instruction answers. -/
abbrev Result := Host.Outcome State Fault Refusal

/-- The machine right after reset with the default parameters, on the platform RAM64 with memory that lists nothing and
every input deasserted (R38, R280, R67).  The reset sequence itself is `State.resetSequence` (Machine/Ops.lean).
Values that the spec does not give: IR (log entry 10); NMI_PREV, CROSSED and the inputs (log entry 11); the bytes of the
reset vector, which are unlisted (log entry 5). -/
def State.reset : State where
  regs :=
    { a := 0x00, x := 0x00, y := 0x00, sp := 0xFD, pc := 0x0000, p := 0x30, ir := 0x00, cyc := 0, halt := false,
      nmiState := .armed, nmiPrev := false, crossed := false }
  bus := { mem := [], regions := [], answers := [], freeReads := 0, events := [.read 0xFFFD 0x00, .read 0xFFFC 0x00] }
  inputs := { irq := false, nmi := false, powerOff := false, moves := [] }
  cfg := Config.standard
  ticks := 0

end Sys2Proof.Machine
end

