-- ==== Sys2Proof/Machine/Ops.lean ====
section
/-! DEFINITION. The named operations over memory, the bus and the registers: the pseudocode primitives (spec 00_scope.md R14),
the interrupt entry and the return beside it (60_exceptions.md), interrupt sampling, the reset sequence (70_reset_and_hazards.md)
and the environment's moves. -/

namespace Sys2Proof.Machine

/-! ### Fixed addresses and constants (R7, R10) -/

def nmiVector : Word := 0xFFFA
def resetVector : Word := 0xFFFC
def irqVector : Word := 0xFFFE

/-- `INT_SERVICE_CYCLES` (R10). -/
def intServiceCycles : Nat := 7

/-! ### Memory -/

/-- What an address that memory does not list reads as (log entry 5). -/
def unlistedByte : Byte := 0x00

/-- The byte memory holds at an address. -/
def Memory.read : Memory → Nat → Byte
  | [], _ => unlistedByte
  | (k, v) :: rest, a => if a = k then v else Memory.read rest a

/-- Memory with a byte written; an entry equal to what an unlisted address reads as is not kept. -/
def Memory.write : Memory → Nat → Byte → Memory
  | [], a, v => if v = unlistedByte then [] else [(a, v)]
  | (k, w) :: rest, a, v =>
    if a < k then (if v = unlistedByte then (k, w) :: rest else (a, v) :: (k, w) :: rest)
    else if a = k then (if v = unlistedByte then rest else (a, v) :: rest)
    else (k, w) :: Memory.write rest a v

/-- The canonical form from address `lo` up: strictly rising addresses below 65,536, no entry equal to what an unlisted
address reads as. -/
def Memory.wfFrom (lo : Nat) : Memory → Bool
  | [] => true
  | (k, v) :: rest => decide (lo ≤ k) && decide (k < 65536) && v != unlistedByte && Memory.wfFrom (k + 1) rest

/-- The canonical form of memory. -/
def Memory.wf (m : Memory) : Bool := Memory.wfFrom 0 m

/-! ### The bus (R50, R53) -/

/-- Whether a region holds an address. -/
def Region.holds (g : Region) (a : Nat) : Bool := decide (g.base ≤ a) && decide (a < g.base + g.size)

/-- The kind of the first region that holds an address; `none` for plain memory (log entry 4). -/
def Bus.kindAt (b : Bus) (a : Word) : Option RegionKind :=
  (b.regions.find? fun g => g.holds a.toNat).map Region.kind

/-- The byte that a read of an address now answers (R53, R57, R66): what memory holds, or for an external address the next
queued answer, or a free value where none is queued. -/
def Bus.value (b : Bus) (a : Word) : Byte :=
  match b.kindAt a with
  | some .external =>
    match b.answers with
    | v :: _ => v
    | [] => Config.freeByte b.freeReads
  | _ => b.mem.read a.toNat

/-- The bus after a read of an address: the event is recorded, and an external read has used up its answer. -/
def Bus.afterRead (b : Bus) (a : Word) : Bus :=
  let event := BusEvent.read a (b.value a)
  match b.kindAt a with
  | some .external =>
    match b.answers with
    | _ :: rest => { b with answers := rest, events := event :: b.events }
    | [] => { b with freeReads := b.freeReads + 1, events := event :: b.events }
  | _ => { b with events := event :: b.events }

/-- The bus after a write: the event is recorded; plain memory holds the byte; elsewhere memory is as it was (R60, R66). -/
def Bus.afterWrite (b : Bus) (a : Word) (v : Byte) : Bus :=
  let event := BusEvent.write a v
  match b.kindAt a with
  | none => { b with mem := b.mem.write a.toNat v, events := event :: b.events }
  | some _ => { b with events := event :: b.events }

/-- `MemRead(addr, 1)`: the byte read and the state after the read (R14). -/
def State.memRead (s : State) (a : Word) : Byte × State := (s.bus.value a, { s with bus := s.bus.afterRead a })

/-- `MemWrite(addr, 1, v)` (R14). -/
def State.memWrite (s : State) (a : Word) (v : Byte) : State := { s with bus := s.bus.afterWrite a v }

/-- `ReadWord(addr)`: two byte reads, the lower address first (R14, R59). -/
def State.readWord (s : State) (a : Word) : Word × State :=
  let l := s.memRead a
  let h := l.2.memRead (a + 1)
  (wordOf h.1 l.1, h.2)

/-! ### Registers -/

def State.setA (s : State) (v : Byte) : State := { s with regs := { s.regs with a := v } }
def State.setX (s : State) (v : Byte) : State := { s with regs := { s.regs with x := v } }
def State.setY (s : State) (v : Byte) : State := { s with regs := { s.regs with y := v } }
def State.setSP (s : State) (v : Byte) : State := { s with regs := { s.regs with sp := v } }
def State.setPC (s : State) (v : Word) : State := { s with regs := { s.regs with pc := v } }
def State.setP (s : State) (v : Byte) : State := { s with regs := { s.regs with p := v } }
def State.setIR (s : State) (v : Byte) : State := { s with regs := { s.regs with ir := v } }
def State.setHalt (s : State) (v : Bool) : State := { s with regs := { s.regs with halt := v } }
def State.setNmiState (s : State) (v : NmiState) : State := { s with regs := { s.regs with nmiState := v } }
def State.setNmiPrev (s : State) (v : Bool) : State := { s with regs := { s.regs with nmiPrev := v } }
def State.setCrossed (s : State) (v : Bool) : State := { s with regs := { s.regs with crossed := v } }

/-- CYC increased by `n`, modulo 2^64 (R33; the spec's D24). -/
def State.addCycles (s : State) (n : Nat) : State :=
  { s with regs := { s.regs with cyc := s.regs.cyc + BitVec.ofNat 64 n } }

/-- A flag of the stored P. -/
def State.flag (s : State) (f : Nat) : Bool := getFlag f s.regs.p

/-- `P.f <- v`. -/
def State.setFlag (s : State) (f : Nat) (v : Bool) : State := s.setP (putFlag f v s.regs.p)

/-- `SetNZ(v)` (R14). -/
def State.setNZ (s : State) (v : Byte) : State := s.setP (putNZ v s.regs.p)

/-! ### Fetch and stack (R14, R23) -/

/-- `Fetch()`: one read at PC, which then advances modulo 65,536 (R31). -/
def State.fetch (s : State) : Byte × State :=
  let b := s.memRead s.regs.pc
  (b.1, b.2.setPC (s.regs.pc + 1))

/-- The address of the stack slot that SP names: `{0x01, SP}` (R22). -/
def stackAddress (sp : Byte) : Word := wordOf 0x01 sp

/-- `Push(v)`: the byte at `0x0100 + SP` is written, then SP is decremented modulo 256. -/
def State.push (s : State) (v : Byte) : State :=
  (s.memWrite (stackAddress s.regs.sp) v).setSP (s.regs.sp - 1)

/-- `Pull()`: SP is incremented modulo 256, then the byte at `0x0100 + SP` is read. -/
def State.pull (s : State) : Byte × State :=
  let s := s.setSP (s.regs.sp + 1)
  s.memRead (stackAddress s.regs.sp)

/-- A 16-bit value pushed high byte first (R54). -/
def State.pushWord (s : State) (w : Word) : State := (s.push (hiByte w)).push (loByte w)

/-- A 16-bit value pulled low byte first. -/
def State.pullWord (s : State) : Word × State :=
  let l := s.pull
  let h := l.2.pull
  (wordOf h.1 l.1, h.2)

/-! ### Taking an interrupt and returning from one -/

/-- The entry sequence shared by NMI, IRQ and BRK: PC high, PC low and P are pushed (B set only for the software
interrupt), I is set, and PC is loaded from the vector (R203, R257, R258). -/
def State.enterInterrupt (s : State) (software : Bool) (vector : Word) : State :=
  let s := s.pushWord s.regs.pc
  let s := s.push (pushedP software s.regs.p)
  let s := s.setFlag flagI true
  let w := s.readWord vector
  w.2.setPC w.1

/-- `Service(vec)`: the entry of a hardware interrupt, which accounts 7 cycles (R257). -/
def State.service (s : State) (vector : Word) : State :=
  (s.enterInterrupt false vector).addCycles intServiceCycles

/-- The return: P is pulled as `SetP` says, then PC low and high with no increment; an NMI in service is over
(R202, R261, R263). -/
def State.returnFromInterrupt (s : State) : State :=
  let p := s.pull
  let s := p.2.setP (loadedP p.1 p.2.regs.p)
  let w := s.pullWord
  let s := w.2.setPC w.1
  if s.regs.nmiState = .inService then s.setNmiState .armed else s

/-- `NmiInput(level)`, the edge detector (R253, R254). -/
def State.nmiInput (s : State) (level : Bool) : State :=
  let s' := if level && !s.regs.nmiPrev && decide (s.regs.nmiState = .armed) then s.setNmiState .pending else s
  s'.setNmiPrev level

/-- The start of a step: the NMI level is sampled, then at most one interrupt is serviced, NMI first
(R232 line (1), R253, R256). -/
def State.sampleInterrupts (s : State) : State :=
  let s := s.nmiInput s.inputs.nmi
  if s.regs.nmiState = .pending then (s.setNmiState .inService).service nmiVector
  else if s.inputs.irq && !s.flag flagI then s.service irqVector
  else s

/-! ### Fetching an instruction and accounting its cycles -/

/-- The fetch of an instruction: the opcode byte into IR, then the operand bytes that its mode has, low byte first
(R100, R232 lines (2) to (4)).  The operand byte of mode IMM is fetched here too: the read is the same event at the same
place in the order as the handler's (R103; log entry 12). -/
def State.fetchInstr (s : State) : Instr × State :=
  let op := s.fetch
  let r := descriptor op.1
  let s := op.2.setIR op.1
  match r.mode.operandBytes with
  | 0 => (r.instr 0 0, s)
  | 1 =>
    let b1 := s.fetch
    (r.instr b1.1 0, b1.2)
  | _ =>
    let b1 := s.fetch
    let b2 := b1.2.fetch
    (r.instr b1.1 b2.1, b2.2)

/-- The cycles the descriptor adds: the base count, and one more if its penalty flag is set and a page was crossed
(R232 line (6), R234). -/
def descriptorCycles (r : Row) (crossed : Bool) : Nat := r.cycles + (if r.penalty && crossed then 1 else 0)

/-- The cycles of the instruction in IR added to CYC (R232 line (6)).  A taken branch has added its own (R190). -/
def State.accountCycles (s : State) : State :=
  s.addCycles (descriptorCycles (descriptor s.regs.ir) s.regs.crossed)

/-- One tick for each cycle that elapsed since CYC was `start` (R232 line (7), R235). -/
def State.emitTicks (s : State) (start : Cycles) : State :=
  { s with ticks := s.ticks + (s.regs.cyc - start).toNat }

/-! ### Reset, the control surface and the environment's moves -/

/-- The reset sequence (R280).  It reads the two bytes of the reset vector and writes no memory; NMI_PREV, the inputs, IR
and CROSSED keep their values; the count of ticks since reset starts again. -/
def State.resetSequence (s : State) : State :=
  let w := s.readWord resetVector
  { w.2 with
    regs := { w.2.regs with
      a := s.cfg.resetA, x := s.cfg.resetX, y := s.cfg.resetY, sp := 0xFD, p := s.cfg.resetP ||| 0x30, pc := w.1
      cyc := 0, halt := false, nmiState := .armed }
    ticks := 0 }

/-- `irq_line(bool)` (R230, R252). -/
def State.irqLine (s : State) (level : Bool) : State := { s with inputs := { s.inputs with irq := level } }

/-- `nmi_line(bool)`: the level is presented and goes through the edge detector, also while halted (R230, R253, R272). -/
def State.nmiLine (s : State) (level : Bool) : State :=
  State.nmiInput { s with inputs := { s.inputs with nmi := level } } level

/-- The host drives the power-off input (R238). -/
def State.powerOffLine (s : State) (level : Bool) : State := { s with inputs := { s.inputs with powerOff := level } }

/-- One move of the environment (R11, R18). -/
def State.applyMove (s : State) (m : Move) : State :=
  match m with
  | .irqLine level => s.irqLine level
  | .nmiLine level => s.nmiLine level
  | .powerOff level => s.powerOffLine level
  | .reset => s.resetSequence
  | .poke a v => { s with bus := { s.bus with mem := s.bus.mem.write a.toNat v } }
  | .answer v => { s with bus := { s.bus with answers := s.bus.answers ++ [v] } }

/-- A step boundary: the environment makes the moves listed for it, in order (log entry 13). -/
def State.boundary (s : State) : State :=
  match s.inputs.moves with
  | [] => s
  | now :: later => now.foldl State.applyMove { s with inputs := { s.inputs with moves := later } }

/-- Alive: not halted and not powered off (R231). -/
def State.alive (s : State) : Bool := !s.regs.halt && !s.inputs.powerOff

end Sys2Proof.Machine
end

