-- ==== Sys2Proof/Machine/Operands.lean ====
section
/-! DEFINITION. The 13 addressing-mode evaluators (spec 40_addressing_modes.md R100 to R114), and the shared shapes of the
handlers that read, write or modify the operand. -/

namespace Sys2Proof.Machine

/-- `sext_16(b)` (R12). -/
def sext16 (b : Byte) : Word := b.signExtend 16

/-- `zext_16(b)` (R12). -/
def zext16 (b : Byte) : Word := b.zeroExtend 16

/-- Whether two addresses lie on different pages (R17). -/
def pageCross (ea base : Word) : Bool := hiByte ea != hiByte base

/-- A 16-bit pointer read from page 0, its high byte from `(LSB + 1) mod 256`, "never from page 1" (R114). -/
def State.zeroPagePointer (s : State) (b : Byte) : Word × State :=
  let l := s.memRead (wordOf 0x00 b)
  let h := l.2.memRead (wordOf 0x00 (b + 1))
  (wordOf h.1 l.1, h.2)

/-- The address of the high byte of a jump pointer: on the pointer's own page, unless CMOS_JMP_FIX (R110). -/
def jumpPointerHigh (fix : Bool) (pointer : Word) : Word :=
  if fix then pointer + 1 else wordOf (hiByte pointer) (loByte pointer + 1)

/-- The evaluator of the operand's mode: the effective address, and the state with CROSSED recorded and the pointer reads
made (R100 to R113).  The operand bytes have been fetched, so PC is the address of the next instruction. -/
def State.evaluate (s : State) (o : Operand) : Word × State :=
  match o with
  | .acc => (0x0000, s.setCrossed false)
  | .imp => (0x0000, s.setCrossed false)
  | .imm _ => (s.regs.pc - 1, s.setCrossed false)
  | .zer b => (wordOf 0x00 b, s.setCrossed false)
  | .zex b => (wordOf 0x00 (b + s.regs.x), s.setCrossed false)
  | .zey b => (wordOf 0x00 (b + s.regs.y), s.setCrossed false)
  | .abs w => (w, s.setCrossed false)
  | .abx base =>
    let ea := base + zext16 s.regs.x
    (ea, s.setCrossed (pageCross ea base))
  | .aby base =>
    let ea := base + zext16 s.regs.y
    (ea, s.setCrossed (pageCross ea base))
  | .abi pointer =>
    let l := (s.setCrossed false).memRead pointer
    let h := l.2.memRead (jumpPointerHigh s.cfg.cmosJmpFix pointer)
    (wordOf h.1 l.1, h.2)
  | .inx b => (s.setCrossed false).zeroPagePointer (b + s.regs.x)
  | .iny b =>
    let base := s.zeroPagePointer b
    let ea := base.1 + zext16 s.regs.y
    (ea, base.2.setCrossed (pageCross ea base.1))
  | .rel offset =>
    let ea := s.regs.pc + sext16 offset
    (ea, s.setCrossed (pageCross ea s.regs.pc))

/-- `m = MemRead(ea, 1)` at the operand's effective address.  The byte of mode IMM has been read by the fetch (R103; log
entry 12). -/
def State.operandRead (s : State) (o : Operand) : Byte × State :=
  let e := s.evaluate o
  match o with
  | .imm b => (b, e.2)
  | _ => e.2.memRead e.1

/-- `MemWrite(ea, 1, v)` at the operand's effective address. -/
def State.operandWrite (s : State) (o : Operand) (v : Byte) : State :=
  let e := s.evaluate o
  e.2.memWrite e.1 v

/-- A shift or rotate: in mode ACC on A with no bus event; else one read and then one write at the same address, with the
flags between (R159). -/
def State.shift (f : Byte → Bool → Byte × Bool) (s : State) (o : Operand) : State :=
  let e := s.evaluate o
  match o with
  | .acc =>
    let r := f e.2.regs.a (e.2.flag flagC)
    (e.2.setP (shiftedP r e.2.regs.p)).setA r.1
  | _ =>
    let v := e.2.memRead e.1
    let r := f v.1 (v.2.flag flagC)
    (v.2.setP (shiftedP r v.2.regs.p)).memWrite e.1 r.1

/-- INC and DEC: one read and then one write at the same address, N and Z from the result (R174, R175). -/
def State.bump (f : Byte → Byte) (s : State) (o : Operand) : State :=
  let e := s.evaluate o
  let v := e.2.memRead e.1
  (v.2.setNZ (f v.1)).memWrite e.1 (f v.1)

/-- `Branch(cond, ea)`: a taken branch sets PC and adds 1 cycle, 2 if the target lies on another page (R190). -/
def State.branchIf (s : State) (taken : Bool) (o : Operand) : State :=
  let e := s.evaluate o
  if taken then (e.2.setPC e.1).addCycles (if e.2.regs.crossed then 2 else 1) else e.2

end Sys2Proof.Machine
end

