-- ==== Sys2Proof/Machine/LoadStore.lean ====
section
/-! DEFINITION. Loads, stores and register transfers (spec 41_load_store_transfer.md). -/

namespace Sys2Proof.Machine

/-- LDA (R121). -/
def execLda (o : Operand) (s : State) : Result :=
  let m := s.operandRead o
  .next ((m.2.setA m.1).setNZ m.1)

/-- LDX (R122). -/
def execLdx (o : Operand) (s : State) : Result :=
  let m := s.operandRead o
  .next ((m.2.setX m.1).setNZ m.1)

/-- LDY (R123). -/
def execLdy (o : Operand) (s : State) : Result :=
  let m := s.operandRead o
  .next ((m.2.setY m.1).setNZ m.1)

/-- STA (R124). -/
def execSta (o : Operand) (s : State) : Result := .next (s.operandWrite o s.regs.a)

/-- STX (R125). -/
def execStx (o : Operand) (s : State) : Result := .next (s.operandWrite o s.regs.x)

/-- STY (R126). -/
def execSty (o : Operand) (s : State) : Result := .next (s.operandWrite o s.regs.y)

/-- The state as an instruction in mode IMP starts its handler: the evaluator has cleared CROSSED (R36, R102). -/
def State.implied (s : State) : State := (s.evaluate .imp).2

/-- TAX (R127). -/
def execTax (s : State) : Result := .next ((s.implied.setX s.regs.a).setNZ s.regs.a)

/-- TAY (R128). -/
def execTay (s : State) : Result := .next ((s.implied.setY s.regs.a).setNZ s.regs.a)

/-- TXA (R129). -/
def execTxa (s : State) : Result := .next ((s.implied.setA s.regs.x).setNZ s.regs.x)

/-- TYA (R130). -/
def execTya (s : State) : Result := .next ((s.implied.setA s.regs.y).setNZ s.regs.y)

/-- TSX (R131). -/
def execTsx (s : State) : Result := .next ((s.implied.setX s.regs.sp).setNZ s.regs.sp)

/-- TXS, "the sole transfer that does not touch flags" (R132). -/
def execTxs (s : State) : Result := .next (s.implied.setSP s.regs.x)

end Sys2Proof.Machine
end

