-- ==== Sys2Proof/Machine/Arithmetic.lean ====
section
/-! DEFINITION. ADC and SBC, compares, increments and decrements (spec 42_arithmetic.md, 44_compare_incdec.md). -/

namespace Sys2Proof.Machine

/-- ADC (R141): binary or decimal as P.D says. -/
def execAdc (o : Operand) (s : State) : Result :=
  let m := s.operandRead o
  let r := adcResult (s.flag flagD) s.regs.a m.1 (s.flag flagC)
  .next ((m.2.setA r.r).setP (putNVZC r s.regs.p))

/-- SBC (R144): binary or decimal as P.D says; C is an inverted borrow. -/
def execSbc (o : Operand) (s : State) : Result :=
  let m := s.operandRead o
  let r := sbcResult (s.flag flagD) s.regs.a m.1 (s.flag flagC)
  .next ((m.2.setA r.r).setP (putNVZC r s.regs.p))

/-- CMP (R171). -/
def execCmp (o : Operand) (s : State) : Result :=
  let m := s.operandRead o
  .next (m.2.setP (comparedP s.regs.a m.1 s.regs.p))

/-- CPX (R172). -/
def execCpx (o : Operand) (s : State) : Result :=
  let m := s.operandRead o
  .next (m.2.setP (comparedP s.regs.x m.1 s.regs.p))

/-- CPY (R173). -/
def execCpy (o : Operand) (s : State) : Result :=
  let m := s.operandRead o
  .next (m.2.setP (comparedP s.regs.y m.1 s.regs.p))

/-- INC (R174). -/
def execInc (o : Operand) (s : State) : Result := .next (s.bump (· + 1) o)

/-- DEC (R175). -/
def execDec (o : Operand) (s : State) : Result := .next (s.bump (· - 1) o)

/-- INX, the instruction (R176). -/
def execInx (s : State) : Result := .next ((s.implied.setX (s.regs.x + 1)).setNZ (s.regs.x + 1))

/-- INY, the instruction (R177). -/
def execIny (s : State) : Result := .next ((s.implied.setY (s.regs.y + 1)).setNZ (s.regs.y + 1))

/-- DEX (R178). -/
def execDex (s : State) : Result := .next ((s.implied.setX (s.regs.x - 1)).setNZ (s.regs.x - 1))

/-- DEY (R179). -/
def execDey (s : State) : Result := .next ((s.implied.setY (s.regs.y - 1)).setNZ (s.regs.y - 1))

end Sys2Proof.Machine
end

