-- ==== Sys2Proof/Machine/Control.lean ====
section
/-! DEFINITION. Branches, jumps, calls, returns and BRK (spec 45_branch_jump_call.md). -/

namespace Sys2Proof.Machine

/-- BCC, branch if C = 0 (R191). -/
def execBcc (o : Operand) (s : State) : Result := .next (s.branchIf (!s.flag flagC) o)

/-- BCS, branch if C = 1 (R192). -/
def execBcs (o : Operand) (s : State) : Result := .next (s.branchIf (s.flag flagC) o)

/-- BEQ, branch if Z = 1 (R193). -/
def execBeq (o : Operand) (s : State) : Result := .next (s.branchIf (s.flag flagZ) o)

/-- BNE, branch if Z = 0 (R194). -/
def execBne (o : Operand) (s : State) : Result := .next (s.branchIf (!s.flag flagZ) o)

/-- BMI, branch if N = 1 (R195). -/
def execBmi (o : Operand) (s : State) : Result := .next (s.branchIf (s.flag flagN) o)

/-- BPL, branch if N = 0 (R196). -/
def execBpl (o : Operand) (s : State) : Result := .next (s.branchIf (!s.flag flagN) o)

/-- BVC, branch if V = 0 (R197). -/
def execBvc (o : Operand) (s : State) : Result := .next (s.branchIf (!s.flag flagV) o)

/-- BVS, branch if V = 1 (R198). -/
def execBvs (o : Operand) (s : State) : Result := .next (s.branchIf (s.flag flagV) o)

/-- JMP (R199): absolute, or indirect with the page-wrap bug of R110. -/
def execJmp (o : Operand) (s : State) : Result :=
  let e := s.evaluate o
  .next (e.2.setPC e.1)

/-- JSR (R200): the address of its own last byte is pushed, high byte first, then PC is the target. -/
def execJsr (o : Operand) (s : State) : Result :=
  let e := s.evaluate o
  .next ((e.2.pushWord (e.2.regs.pc - 1)).setPC e.1)

/-- RTS (R201): PC is the pulled address plus one. -/
def execRts (s : State) : Result :=
  let w := s.implied.pullWord
  .next (w.2.setPC (w.1 + 1))

/-- RTI (R202, R263). -/
def execRti (s : State) : Result := .next s.implied.returnFromInterrupt

/-- BRK (R203): PC moves past the signature byte, then the software interrupt is taken through the IRQ vector. -/
def execBrk (s : State) : Result :=
  let s := s.implied
  .next ((s.setPC (s.regs.pc + 1)).enterInterrupt true irqVector)

end Sys2Proof.Machine
end

