-- ==== Sys2Proof/Machine/FlagsStack.lean ====
section
/-! DEFINITION. Flag instructions, stack instructions, NOP and the ILLEGAL entry (spec 46_flag_stack_nop.md). -/

namespace Sys2Proof.Machine

/-- CLC (R210). -/
def execClc (s : State) : Result := .next (s.implied.setFlag flagC false)

/-- SEC (R211). -/
def execSec (s : State) : Result := .next (s.implied.setFlag flagC true)

/-- CLD (R212). -/
def execCld (s : State) : Result := .next (s.implied.setFlag flagD false)

/-- SED (R213). -/
def execSed (s : State) : Result := .next (s.implied.setFlag flagD true)

/-- CLI (R214). -/
def execCli (s : State) : Result := .next (s.implied.setFlag flagI false)

/-- SEI (R215). -/
def execSei (s : State) : Result := .next (s.implied.setFlag flagI true)

/-- CLV (R216). -/
def execClv (s : State) : Result := .next (s.implied.setFlag flagV false)

/-- PHA (R217). -/
def execPha (s : State) : Result := .next (s.implied.push s.regs.a)

/-- PHP (R218): the pushed copy has B and bit 5 set; P itself is unchanged. -/
def execPhp (s : State) : Result := .next (s.implied.push (pushedP true s.regs.p))

/-- PLA (R219). -/
def execPla (s : State) : Result :=
  let v := s.implied.pull
  .next ((v.2.setA v.1).setNZ v.1)

/-- PLP (R220). -/
def execPlp (s : State) : Result :=
  let v := s.implied.pull
  .next (v.2.setP (loadedP v.1 s.regs.p))

/-- NOP (R221): nothing. -/
def execNop (s : State) : Result := .next s.implied

/-- ILLEGAL (R226): the illegal-opcode latch is set; no vector, no push, no operand byte. -/
def execIllegal (_opcode : Byte) (s : State) : Result := .next (s.implied.setHalt true)

end Sys2Proof.Machine
end

