-- ==== Sys2Proof/Machine/Logic.lean ====
section
/-! DEFINITION. Logical operations, shifts, rotates and the bit test (spec 43_logical_shift_bit.md). -/

namespace Sys2Proof.Machine

/-- AND (R151). -/
def execAnd (o : Operand) (s : State) : Result :=
  let m := s.operandRead o
  .next ((m.2.setA (s.regs.a &&& m.1)).setNZ (s.regs.a &&& m.1))

/-- EOR (R152). -/
def execEor (o : Operand) (s : State) : Result :=
  let m := s.operandRead o
  .next ((m.2.setA (s.regs.a ^^^ m.1)).setNZ (s.regs.a ^^^ m.1))

/-- ORA (R153). -/
def execOra (o : Operand) (s : State) : Result :=
  let m := s.operandRead o
  .next ((m.2.setA (s.regs.a ||| m.1)).setNZ (s.regs.a ||| m.1))

/-- ASL (R154, R159). -/
def execAsl (o : Operand) (s : State) : Result := .next (State.shift aslOf s o)

/-- LSR (R155, R159). -/
def execLsr (o : Operand) (s : State) : Result := .next (State.shift lsrOf s o)

/-- ROL (R156, R159). -/
def execRol (o : Operand) (s : State) : Result := .next (State.shift rolOf s o)

/-- ROR (R157, R159). -/
def execRor (o : Operand) (s : State) : Result := .next (State.shift rorOf s o)

/-- BIT (R158): A is unchanged. -/
def execBit (o : Operand) (s : State) : Result :=
  let m := s.operandRead o
  .next (m.2.setP (bitTestedP s.regs.a m.1 s.regs.p))

end Sys2Proof.Machine
end

