-- ==== Sys2Proof/Machine/Step.lean ====
section
/-! DEFINITION. The step (spec 47_step_and_run.md R232): the environment's moves for this boundary, then one `Step`. -/

namespace Sys2Proof.Machine

/-- `Step()` (R232).  Line (0): a halted or powered-off core changes nothing.  Line (1): interrupts.  Lines (2) to (5): fetch,
decode, evaluate, execute.  Lines (6) and (7): cycles and ticks.  The parameter UNDOCUMENTED_OPCODES set true is refused
(R9; log entry 9).  `alive` is `State.alive` of the next state (R231). -/
def stepOnce (s : State) : Host.Outcome State Fault Refusal :=
  if s.cfg.undocumentedOpcodes then .refused .undocumentedOpcodes
  else if !s.alive then .next s
  else
    let f := s.sampleInterrupts.fetchInstr
    match exec f.1 f.2 with
    | .next t => .next (t.accountCycles.emitTicks s.regs.cyc)
    | .fault r => .fault r
    | .refused r => .refused r

/-- One step of the machine: the environment's moves listed for this boundary, then `Step()` (R11, R18; log entry 13). -/
def step (s : State) : Host.Outcome State Fault Refusal := stepOnce s.boundary

/-- Bytes laid down in plain memory from an address up, modulo 65,536. -/
def Memory.place (m : Memory) (a : Word) : List Byte → Memory
  | [] => m
  | b :: rest => Memory.place (m.write a.toNat b) (a + 1) rest

/-- `s` with an instruction placed where `step` fetches its next one, and everything else the fetch needs: the core alive,
no interrupt to be serviced first, no move of the environment listed, the parameters accepted, and plain memory at the three
addresses (log entry 14). -/
def State.withFetchWord (s : State) (nbits w : Nat) : State :=
  let a := s.regs.pc
  { s with
    regs := { s.regs with
      halt := false
      nmiState := if s.regs.nmiState = .pending then .armed else s.regs.nmiState
      nmiPrev := s.regs.nmiPrev || s.inputs.nmi }
    inputs := { s.inputs with irq := false, powerOff := false, moves := [] }
    cfg := { s.cfg with undocumentedOpcodes := false }
    bus := { s.bus with
      mem := s.bus.mem.place a (tableBytes nbits w)
      regions := s.bus.regions.filter fun g =>
        !(g.holds a.toNat || g.holds (a + 1).toNat || g.holds (a + 2).toNat) } }

end Sys2Proof.Machine
end

