-- ==== Sys2Proof/Machine/Drivers.lean ====
section
/-! DEFINITION. The run drivers (spec 47_step_and_run.md R236, R237). -/

namespace Sys2Proof.Machine

/-- The unit a budget is counted in (R236). -/
inductive BudgetMethod where
  | cycleCount
  | instructionCount
deriving DecidableEq, Repr

/-- What a completed step from `s` to `t` is charged (R236). -/
def charge (method : BudgetMethod) (s t : State) : Int :=
  match method with
  | .cycleCount => (t.regs.cyc - s.regs.cyc).toNat
  | .instructionCount => 1

/-- The loop of `Run`, for at most `fuel` rounds: the state at its end and the budget left.  The environment's moves for a
boundary are made before the loop condition is tested; a step that ends not alive is not charged (R236; log entry 18). -/
def runLoop (method : BudgetMethod) : Nat → Int → State → Host.Outcome (State × Int) Fault Refusal
  | 0, budget, s => .next (s, budget)
  | fuel + 1, budget, s =>
    if budget ≤ 0 then .next (s, budget)
    else
      let s := s.boundary
      if !s.alive then .next (s, budget)
      else
        match stepOnce s with
        | .next t => if t.alive then runLoop method fuel (budget - charge method s t) t else .next (t, budget)
        | .fault r => .fault r
        | .refused r => .refused r

/-- `Run(budget, method)` (R236).  A completed step is charged at least 1, so `budget` rounds are enough. -/
def runDriver (method : BudgetMethod) (budget : Int) (s : State) : Host.Outcome (State × Int) Fault Refusal :=
  runLoop method budget.toNat budget s

/-- `RunEternally()`, for at most `fuel` rounds; the loop of R237 need not end.  A step that ends not alive ends the run at
once, before any further move of the environment (R237, R239; log entry 18). -/
def runEternally : Nat → State → Host.Outcome State Fault Refusal
  | 0, s => .next s
  | fuel + 1, s =>
    let s := s.boundary
    if !s.alive then .next s
    else
      match stepOnce s with
      | .next t => if t.alive then runEternally fuel t else .next t
      | .fault r => .fault r
      | .refused r => .refused r

end Sys2Proof.Machine
end

