-- ==== Sys2Proof/Safety.lean ====
section
/-! DEFINITION. The terms in which claims are stated: the invariant of the machine, a run that never stops, and what one state
keeps of another. -/

namespace Sys2Proof.Machine

/-- The invariant: memory is in its canonical form; the constant bit of P is set (R25, R40 (a)); the stored break bit is set
(R40 (d), the spec's D5); the ticks emitted since reset are CYC (R235). -/
structure State.Inv (s : State) : Prop where
  memory : s.bus.mem.wf = true
  constantBit : getFlag 5 s.regs.p = true
  breakBit : getFlag flagB s.regs.p = true
  ticks : s.regs.cyc = BitVec.ofNat 64 s.ticks

/-- No run from a state ends in a fault or a refusal. -/
def NeverStops (s : State) : Prop := ∀ n, ∃ t, Sys2Proof.core.run n s = .next t

/-- Every byte of memory reads as before, except at the addresses listed. -/
def SameMemoryExcept (written : List Word) (s t : State) : Prop :=
  ∀ a : Word, a ∉ written → t.bus.mem.read a.toNat = s.bus.mem.read a.toNat

/-- Every bit of P is as before, except the bits listed. -/
def SameFlagsExcept (written : List Nat) (s t : State) : Prop :=
  ∀ f < 8, f ∉ written → getFlag f t.regs.p = getFlag f s.regs.p

/-- The inputs, the parameters, the platform's regions, IR, the NMI input's last level and the tick count are as before. -/
def SameSurroundings (s t : State) : Prop :=
  t.inputs = s.inputs ∧ t.cfg = s.cfg ∧ t.bus.regions = s.bus.regions ∧ t.ticks = s.ticks ∧
    t.regs.ir = s.regs.ir ∧ t.regs.nmiPrev = s.regs.nmiPrev

/-- The bus events from `s` to `t` are the listed ones, oldest first (the history is kept newest first). -/
def Emits (s t : State) (events : List BusEvent) : Prop := t.bus.events = events.reverse ++ s.bus.events

/-- The byte M of an instruction's operand: the operand byte itself in mode IMM, else what the bus answers at the effective
address once the evaluator has made its pointer reads (R81, R103). -/
def State.operandByte (s : State) (o : Operand) : Byte :=
  match o with
  | .imm b => b
  | _ => (s.evaluate o).2.bus.value (s.evaluate o).1

/-- The bus events of reading M, after the evaluator's own: none in mode IMM, whose byte the fetch has read. -/
def State.operandReads (s : State) (o : Operand) : List BusEvent :=
  match o with
  | .imm _ => []
  | _ => [.read (s.evaluate o).1 (s.operandByte o)]

/-- CROSSED as the evaluator of the operand leaves it. -/
def State.crossedBy (s : State) (o : Operand) : Bool := (s.evaluate o).2.regs.crossed

/-- From `s` to `t` memory is only read: the evaluator's pointer bytes and the operand byte, and nothing outside the core
and memory is touched. -/
def ReadsOperandOnly (o : Operand) (s t : State) : Prop :=
  SameMemoryExcept [] s t ∧ SameSurroundings s t ∧ Emits (s.evaluate o).2 t (s.operandReads o)

/-- N is bit 7 of a byte and Z says whether it is zero (R14). -/
def NZFrom (v : Byte) (t : State) : Prop := t.flag flagN = v.getLsbD 7 ∧ t.flag flagZ = decide (v = 0)

/-- From `s` to `t` one byte is stored at an address after the listed earlier events: the event is emitted; plain memory
then holds the byte, and a region that is not plain memory leaves memory as it was (R60, R66); every other address reads
as before. -/
def StoresByte (earlier : List BusEvent) (ea : Word) (v : Byte) (s t : State) : Prop :=
  Emits s t (earlier ++ [.write ea v]) ∧
    (s.bus.kindAt ea = none → t.bus.mem.read ea.toNat = v) ∧
    (s.bus.kindAt ea ≠ none → SameMemoryExcept [] s t) ∧
    SameMemoryExcept [ea] s t

/-- From `s` to `t` the listed bytes are stored, each at an address of its own: plain memory then holds the byte, an address
that is not plain memory holds what it held (R60, R66), and every other address reads as before. -/
def StoresAll (writes : List (Word × Byte)) (s t : State) : Prop :=
  (∀ w ∈ writes, t.bus.mem.read w.1.toNat = if s.bus.kindAt w.1 = none then w.2 else s.bus.mem.read w.1.toNat) ∧
    SameMemoryExcept (writes.map Prod.fst) s t

/-- The address of a stack slot, `0x0100 + sp` (R22). -/
def stackSlot (sp : Byte) : Word := BitVec.ofNat 16 (256 + sp.toNat)

/-- What the bus answers to reads at the listed addresses, made one after the other. -/
def Bus.answersTo (b : Bus) : List Word → List Byte
  | [] => []
  | a :: rest => b.value a :: (b.afterRead a).answersTo rest

/-- The condition on P under which a mnemonic is a taken branch (R191 to R198); no other mnemonic is one. -/
def branchTaken (m : Mnemonic) (p : Byte) : Bool :=
  match m with
  | .bcc => !getFlag flagC p
  | .bcs => getFlag flagC p
  | .beq => getFlag flagZ p
  | .bne => !getFlag flagZ p
  | .bmi => getFlag flagN p
  | .bpl => !getFlag flagN p
  | .bvc => !getFlag flagV p
  | .bvs => getFlag flagV p
  | _ => false

/-- Whether the step that begins in `s` services an interrupt (R232 line (1), R256). -/
def State.services (s : State) : Bool :=
  decide ((s.nmiInput s.inputs.nmi).regs.nmiState = .pending) || (s.inputs.irq && !s.flag flagI)

/-- The decimal number a byte stands for, "`10 * hi_nibble + lo_nibble`" (R17). -/
def bcdValue (b : Byte) : Nat := 10 * (b.toNat / 16) + b.toNat % 16

/-- Valid BCD: both nibbles are 0 to 9 (R17). -/
def validBcd (b : Byte) : Bool := decide (b.toNat / 16 ≤ 9) && decide (b.toNat % 16 ≤ 9)

end Sys2Proof.Machine
end

