-- ==== Sys2Proof/Certificates/Slice0/Obligations.lean ====
section
/-! DEFINITION. The statements for the provers. -/

open Sys2Proof Sys2Proof.Machine

/-! ### Encoding -/

/-- Decoding the encoding of a well-formed instruction gives it back, whatever bytes follow.  (The opcode bytes are log entry 1;
that an ILLEGAL entry has length 1 is the spec's D12, log entry 23.) -/
def Obligations.DecodeOfEncode : Prop :=
  ∀ (i : Instr) (rest : List Byte), i.wf = true → decode (encode i ++ rest) = .ok (i, rest)

/-- Whatever decodes is well formed and is the encoding of what it decodes to.  (The opcode bytes are log entry 1; that an
ILLEGAL entry has length 1 is the spec's D12, log entry 23.) -/
def Obligations.EncodeOfDecode : Prop :=
  ∀ (bytes rest : List Byte) (i : Instr),
    decode bytes = .ok (i, rest) → i.wf = true ∧ encode i ++ rest = bytes

/-- The decoder is total: every opcode byte with two bytes after it decodes, to ILLEGAL exactly for the 105 bytes that the
spec lists, which leave the two bytes after it, and the official map has 151 rows.  (Which bytes are official is the spec's
"general knowledge", log entry 1; that an ILLEGAL entry has length 1 is the spec's D12, log entry 23.) -/
def Obligations.EveryOpcodeByteDecodes : Prop :=
  (∀ op b1 b2 : Byte, ∃ i rest, decode [op, b1, b2] = .ok (i, rest) ∧
    (i.mnemonic = .illegal ↔ illegalBytes.contains op = true) ∧ (i.mnemonic = .illegal → rest = [b1, b2])) ∧
  illegalBytes.length = 105 ∧ illegalBytes.Nodup ∧ opcodeTable.length = 151

/-- Exactly 23 rows carry the page-cross penalty: the read instructions in modes ABX, ABY and INY, LDX in ABY and LDY in ABX
(general knowledge of the spec, log entry 3). -/
def Obligations.PenaltyRowsAreTheIndexedReads : Prop :=
  (opcodeTable.filter Row.penalty).length = 23 ∧
  ∀ r ∈ opcodeTable, (r.penalty = true ↔
    (r.mnemonic ∈ [.adc, .and, .cmp, .eor, .lda, .ora, .sbc] ∧ r.mode ∈ [.abx, .aby, .iny]) ∨
      (r.mnemonic = .ldx ∧ r.mode = .aby) ∨ (r.mnemonic = .ldy ∧ r.mode = .abx))

/-- Words written out from the spec's encodings decode to the instructions they stand for.  (The source confirms the bytes
0xA9, 0x69, 0xD0, 0x48 and 0x00; the others are the spec's "general knowledge", log entry 1.) -/
def Obligations.WrittenWordsDecode : Prop :=
  decode [0xA9, 0x05, 0x69] = .ok (.lda (.imm 0x05), [0x69]) ∧
  decode [0x69, 0x03] = .ok (.adc (.imm 0x03), []) ∧
  decode [0xD0, 0x10] = .ok (.bne (.rel 0x10), []) ∧
  decode [0x48] = .ok (.pha, []) ∧
  decode [0x00] = .ok (.brk, []) ∧
  decode [0x6C, 0xFF, 0x10] = .ok (.jmp (.abi 0x10FF), []) ∧
  decode [0x9D, 0xFF, 0x12] = .ok (.sta (.abx 0x12FF), []) ∧
  decode [0xB6, 0xF0] = .ok (.ldx (.zey 0xF0), []) ∧
  decode [0x91, 0x40] = .ok (.sta (.iny 0x40), []) ∧
  decode [0xE1, 0x20] = .ok (.sbc (.inx 0x20), []) ∧
  decode [0x5E, 0xFF, 0x12] = .ok (.lsr (.abx 0x12FF), []) ∧
  decode [0x02, 0xFF] = .ok (.illegal 0x02, [0xFF])

/-! ### The step -/

/-- A step runs the instruction it decodes.  `s` is the state after the environment's moves; interrupts are serviced, then
up to three bytes are fetched, as many as the instruction has.  If those bytes decode to `i`, the step is `exec i` at the
state after the fetch of `i`'s own bytes, with IR loaded, followed by the cycle accounting and the ticks.  (That interrupts
are sampled once, at the start, and that the same step runs the handler's first instruction is the spec's D18, log entry 23;
the moves before the step are log entry 13; that the byte of mode IMM is read in the fetch is log entry 12.) -/
def Obligations.StepRunsTheDecodedInstruction : Prop :=
  ∀ (s₀ : State) (i : Instr) (rest : List Byte),
    let s := s₀.boundary
    let f₀ := s.sampleInterrupts.fetch
    let f₁ := (f₀.2.setIR f₀.1).fetch
    let f₂ := f₁.2.fetch
    s.cfg.undocumentedOpcodes = false → s.alive = true →
    decode [f₀.1, f₁.1, f₂.1] = .ok (i, rest) →
      step s₀ =
        match exec i (match rest.length with | 2 => f₀.2.setIR f₀.1 | 1 => f₁.2 | _ => f₂.2) with
        | .next t => .next (t.accountCycles.emitTicks s.regs.cyc)
        | .fault r => .fault r
        | .refused r => .refused r

/-- A fetch reads the byte at PC and moves PC on by one, modulo 65,536: at an address that no device answers for, the byte
is what memory holds there, one read event is emitted, and nothing else changes.  (The wrap is the spec's D11, log entry 23.
External addresses are left out: their byte is the environment's, and BusAccesses says what a read of one does.) -/
def Obligations.FetchReadsTheByteAtPC : Prop :=
  ∀ s : State, s.bus.kindAt s.regs.pc ≠ some .external →
    s.fetch = (s.bus.mem.read s.regs.pc.toNat,
      { s with
        regs := { s.regs with pc := BitVec.ofNat 16 (s.regs.pc.toNat + 1) }
        bus := { s.bus with events := .read s.regs.pc (s.bus.mem.read s.regs.pc.toNat) :: s.bus.events } })

/-- A store is seen by the very next fetch: after STA, STX or STY to the address that PC holds, in plain memory, the byte
fetched is the byte stored (plain memory is the model's form of the bus, log entry 4). -/
def Obligations.StoreIsSeenByTheNextFetch : Prop :=
  ∀ (o : Operand) (s : State), s.bus.mem.wf = true → s.bus.kindAt s.regs.pc = none →
    (s.evaluate o).1 = s.regs.pc →
      ∃ ta tx ty, exec (.sta o) s = .next ta ∧ ta.fetch.1 = s.regs.a ∧
        exec (.stx o) s = .next tx ∧ tx.fetch.1 = s.regs.x ∧ exec (.sty o) s = .next ty ∧ ty.fetch.1 = s.regs.y

/-- There are exactly three kinds of outcome: the normal step, alive after it; the illegal-opcode step, not alive after it;
and the step of a core that is halted or powered off, which changes nothing.  (UNDOCUMENTED_OPCODES is false, which the
spec fixes.  That the step of a halted or powered-off core changes nothing is the spec's D12, log entry 23; that it is a next
state and that alive is read from the state is log entry 21.) -/
def Obligations.ThreeOutcomesOfAStep : Prop :=
  ∀ s : State, s.cfg.undocumentedOpcodes = false →
    (s.regs.halt = true ∨ s.inputs.powerOff = true → stepOnce s = .next s ∧ s.alive = false) ∧
    (s.regs.halt = false ∧ s.inputs.powerOff = false →
      ∃ t, stepOnce s = .next t ∧
        ((descriptor t.regs.ir).mnemonic ≠ .illegal → t.alive = true) ∧
        ((descriptor t.regs.ir).mnemonic = .illegal → t.alive = false))

/-- No run of any length from any state whose parameters the spec admits ends in a fault or a refusal; and with
UNDOCUMENTED_OPCODES true every step is refused, by name (the spec's D6, log entry 9). -/
def Obligations.NoRunStops : Prop :=
  ∀ s : State, (s.cfg.undocumentedOpcodes = false → NeverStops s) ∧
    (s.cfg.undocumentedOpcodes = true → step s = .refused .undocumentedOpcodes)

/-- The illegal-opcode latch: only ILLEGAL sets it; while it is set no step changes any state; reset clears it, and neither an
interrupt service nor any instruction does. -/
def Obligations.IllegalOpcodeLatch : Prop :=
  (∀ (i : Instr) (s t : State), exec i s = .next t →
    t.regs.halt = (s.regs.halt || decide (i.mnemonic = .illegal))) ∧
  (∀ s t : State, s.regs.halt = true → stepOnce s = .next t → t = s ∧ t.alive = false) ∧
  (∀ s : State, s.sampleInterrupts.regs.halt = s.regs.halt) ∧
  (∀ s : State, s.resetSequence.regs.halt = false) ∧
  (∀ (s : State) (m : Move), (s.applyMove m).regs.halt = (s.regs.halt && decide (m ≠ .reset)))

/-- The cycles a step adds to CYC: 7 if it services an interrupt, the descriptor's base cycles, 1 if its penalty flag is
set and a page was crossed, and for a taken branch 1, and a further 1 if a page was crossed; an ILLEGAL entry adds none.
The base count of 7 is that of BRK and of the read-modify-write instructions in mode ABX (general knowledge, log entry 1).
A normal step without service adds 2 to 7 cycles, a step with service at most 14.  (The 7 of a service is the spec's D8, the
none of an ILLEGAL entry its D12, the sum modulo 2^64 its D24: log entry 23; the penalty rows are log entry 3.) -/
def Obligations.StepAddsCyclesByTheFormula : Prop :=
  (∀ s t : State, s.alive = true → stepOnce s = .next t →
    let r := descriptor t.regs.ir
    t.regs.cyc = s.regs.cyc + BitVec.ofNat 64
      ((if s.services then 7 else 0) + r.cycles + (if r.penalty && t.regs.crossed then 1 else 0) +
        (if branchTaken r.mnemonic t.regs.p then (if t.regs.crossed then 2 else 1) else 0))) ∧
  (∀ b : Byte, (descriptor b).mnemonic = .illegal → (descriptor b).cycles = 0 ∧ (descriptor b).penalty = false) ∧
  (∀ r ∈ opcodeTable, 2 ≤ r.cycles ∧ r.cycles + (if r.penalty then 1 else 0) ≤ 7 ∧
    (r.cycles = 7 ↔
      r.mnemonic = .brk ∨ (r.mnemonic ∈ [.asl, .lsr, .rol, .ror, .inc, .dec] ∧ r.mode = .abx))) ∧
  (∀ s t : State, s.alive = true → stepOnce s = .next t → (descriptor t.regs.ir).mnemonic ≠ .illegal →
    2 ≤ (t.regs.cyc - s.regs.cyc).toNat ∧ (t.regs.cyc - s.regs.cyc).toNat ≤ 14 ∧
      (s.services = false → (t.regs.cyc - s.regs.cyc).toNat ≤ 7))

/-- The cycle count is an output, never an input: a step from a state that differs in CYC alone ends in a state that differs
in CYC alone, by the same amount. -/
def Obligations.CyclesNeverFeedBack : Prop :=
  ∀ (s t : State) (d : Cycles), stepOnce s = .next t →
    stepOnce { s with regs := { s.regs with cyc := s.regs.cyc + d } } =
      .next { t with regs := { t.regs with cyc := t.regs.cyc + d } }

/-! ### The invariant -/

/-- The invariant holds right after reset (its clause on bit 4 is the spec's D5, CYC 0 its D4, log entry 23; the count of
ticks is log entry 16). -/
def Obligations.InvariantAtReset : Prop := State.reset.Inv

/-- Every step keeps the invariant, from every state that has it, whatever the environment's moves (its clause on bit 4 is the
spec's D5, that the ticks of a step are its elapsed cycles its D17, log entry 23; the count of ticks is log entry 16). -/
def Obligations.StepKeepsTheInvariant : Prop :=
  ∀ s t : State, s.Inv → step s = .next t → t.Inv

/-! ### Addressing modes and the bus -/

/-- The effective addresses that need no pointer, in integer arithmetic: the zero-page modes stay in page 0, the indexed and
relative ones wrap modulo 65,536; CROSSED is recorded by ABX, ABY and REL; no bus event is made and no other state changes.
(The wraps modulo 65,536 are the spec's D11, the page of the next instruction as the base of REL its D14; log entry 23.) -/
def Obligations.EffectiveAddressesWithoutPointer : Prop :=
  ∀ (s : State) (b : Byte) (w : Word),
    s.evaluate .acc = (0, s.setCrossed false) ∧ s.evaluate .imp = (0, s.setCrossed false) ∧
    (∃ ea, s.evaluate (.imm b) = (ea, s.setCrossed false) ∧ (ea.toNat + 1) % 65536 = s.regs.pc.toNat) ∧
    (∃ ea, s.evaluate (.zer b) = (ea, s.setCrossed false) ∧ ea.toNat = b.toNat) ∧
    (∃ ea, s.evaluate (.zex b) = (ea, s.setCrossed false) ∧ ea.toNat = (b.toNat + s.regs.x.toNat) % 256) ∧
    (∃ ea, s.evaluate (.zey b) = (ea, s.setCrossed false) ∧ ea.toNat = (b.toNat + s.regs.y.toNat) % 256) ∧
    s.evaluate (.abs w) = (w, s.setCrossed false) ∧
    (∃ ea, s.evaluate (.abx w) = (ea, s.setCrossed (decide (w.toNat % 256 + s.regs.x.toNat > 255))) ∧
      ea.toNat = (w.toNat + s.regs.x.toNat) % 65536) ∧
    (∃ ea, s.evaluate (.aby w) = (ea, s.setCrossed (decide (w.toNat % 256 + s.regs.y.toNat > 255))) ∧
      ea.toNat = (w.toNat + s.regs.y.toNat) % 65536) ∧
    (∃ ea, s.evaluate (.rel b) = (ea, s.setCrossed (decide (ea.toNat / 256 ≠ s.regs.pc.toNat / 256))) ∧
      (ea.toNat : Int) = ((s.regs.pc.toNat : Int) + b.toInt) % 65536)

/-- A 16-bit pointer in page 0 takes its high byte from `(LSB + 1) mod 256`, never from page 1: modes INX and INY read the
two bytes at those addresses, low byte first, and change nothing but CROSSED, which INX clears and INY records (that INY's sum
wraps modulo 65,536 is the spec's D11, log entry 23). -/
def Obligations.ZeroPagePointersStayInPageZero : Prop :=
  ∀ (s : State) (b : Byte) (l h : Byte),
    (let z := (b.toNat + s.regs.x.toNat) % 256
     let lowAt := BitVec.ofNat 16 z
     let highAt := BitVec.ofNat 16 ((z + 1) % 256)
     s.bus.answersTo [lowAt, highAt] = [l, h] →
      (s.evaluate (.inx b)).1 = wordOf h l ∧
      (s.evaluate (.inx b)).2.regs = { s.regs with crossed := false } ∧
      SameMemoryExcept [] s (s.evaluate (.inx b)).2 ∧ SameSurroundings s (s.evaluate (.inx b)).2 ∧
      Emits s (s.evaluate (.inx b)).2 [.read lowAt l, .read highAt h]) ∧
    (let lowAt := BitVec.ofNat 16 b.toNat
     let highAt := BitVec.ofNat 16 ((b.toNat + 1) % 256)
     s.bus.answersTo [lowAt, highAt] = [l, h] →
      (s.evaluate (.iny b)).1.toNat = ((wordOf h l).toNat + s.regs.y.toNat) % 65536 ∧
      (s.evaluate (.iny b)).2.regs = { s.regs with crossed := decide (l.toNat + s.regs.y.toNat > 255) } ∧
      SameMemoryExcept [] s (s.evaluate (.iny b)).2 ∧ SameSurroundings s (s.evaluate (.iny b)).2 ∧
      Emits s (s.evaluate (.iny b)).2 [.read lowAt l, .read highAt h])

/-- JMP: absolute; and indirect, where the high byte of the target comes from the pointer's own page unless CMOS_JMP_FIX (that the
address of the high byte then wraps modulo 65,536 is the spec's D11, log entry 23). -/
def Obligations.JumpAbsoluteAndIndirect : Prop :=
  (∀ (s : State) (w : Word), ∃ t, exec (.jmp (.abs w)) s = .next t ∧
    t = { s with regs := { s.regs with pc := w, crossed := false } }) ∧
  (∀ (s : State) (w : Word) (l h : Byte),
    let highAt : Word :=
      if s.cfg.cmosJmpFix then BitVec.ofNat 16 (w.toNat + 1)
      else BitVec.ofNat 16 (w.toNat / 256 * 256 + (w.toNat + 1) % 256)
    s.bus.answersTo [w, highAt] = [l, h] →
      ∃ t, exec (.jmp (.abi w)) s = .next t ∧
        t.regs = { s.regs with pc := wordOf h l, crossed := false } ∧
        SameMemoryExcept [] s t ∧ SameSurroundings s t ∧ Emits s t [.read w l, .read highAt h])

/-- The bus: plain memory answers the byte last written and other addresses are left alone; a write to read-only or external
addresses is recorded and leaves memory as it was; an external read answers the environment's next byte and uses it up;
every access is one event (the form of the platform is the model's, log entry 4, with the queue of answers, 6, and the writes
outside plain memory, 7; that no other event is made is the spec's D16, log entry 23). -/
def Obligations.BusAccesses : Prop :=
  ∀ (s : State) (a c : Word) (v : Byte), s.bus.mem.wf = true →
    (s.bus.kindAt a = none → ((s.memWrite a v).memRead a).1 = v) ∧
    (c ≠ a → s.bus.kindAt c ≠ some .external → ((s.memWrite a v).memRead c).1 = (s.memRead c).1) ∧
    (s.bus.kindAt a ≠ none → SameMemoryExcept [] s (s.memWrite a v)) ∧
    (∀ rest, s.bus.kindAt a = some .external → s.bus.answers = v :: rest →
      (s.memRead a).1 = v ∧ (s.memRead a).2.bus.answers = rest) ∧
    (s.memRead a).2.regs = s.regs ∧ SameMemoryExcept [] s (s.memRead a).2 ∧
    Emits s (s.memRead a).2 [.read a (s.memRead a).1] ∧ Emits s (s.memWrite a v) [.write a v] ∧
    (s.memWrite a v).regs = s.regs

/-! ### Loads, stores, transfers -/

/-- LDA, LDX, LDY copy the operand byte to the register, set N from bit 7 and Z from byte = 0, and touch nothing else. -/
def Obligations.LoadsCopyTheByteAndSetNZ : Prop :=
  ∀ (o : Operand) (s : State),
    let m := s.operandByte o
    ((Instr.lda o).wf = true → ∃ t, exec (.lda o) s = .next t ∧
      t.regs = { s.regs with a := m, p := t.regs.p, crossed := s.crossedBy o } ∧
      NZFrom m t ∧ SameFlagsExcept [flagN, flagZ] s t ∧ ReadsOperandOnly o s t) ∧
    ((Instr.ldx o).wf = true → ∃ t, exec (.ldx o) s = .next t ∧
      t.regs = { s.regs with x := m, p := t.regs.p, crossed := s.crossedBy o } ∧
      NZFrom m t ∧ SameFlagsExcept [flagN, flagZ] s t ∧ ReadsOperandOnly o s t) ∧
    ((Instr.ldy o).wf = true → ∃ t, exec (.ldy o) s = .next t ∧
      t.regs = { s.regs with y := m, p := t.regs.p, crossed := s.crossedBy o } ∧
      NZFrom m t ∧ SameFlagsExcept [flagN, flagZ] s t ∧ ReadsOperandOnly o s t)

/-- STA, STX, STY write the register to the effective address, in one write, and touch nothing else: no flag, no register,
no other byte of memory. -/
def Obligations.StoresWriteTheRegister : Prop :=
  ∀ (o : Operand) (s : State), s.bus.mem.wf = true →
    let e := s.evaluate o
    ((Instr.sta o).wf = true → ∃ t, exec (.sta o) s = .next t ∧
      t.regs = { s.regs with crossed := s.crossedBy o } ∧ StoresByte [] e.1 s.regs.a e.2 t ∧ SameSurroundings s t) ∧
    ((Instr.stx o).wf = true → ∃ t, exec (.stx o) s = .next t ∧
      t.regs = { s.regs with crossed := s.crossedBy o } ∧ StoresByte [] e.1 s.regs.x e.2 t ∧ SameSurroundings s t) ∧
    ((Instr.sty o).wf = true → ∃ t, exec (.sty o) s = .next t ∧
      t.regs = { s.regs with crossed := s.crossedBy o } ∧ StoresByte [] e.1 s.regs.y e.2 t ∧ SameSurroundings s t)

/-- TAX, TAY, TXA, TYA, TSX copy the register and set N and Z from the result; TXS copies X to SP and touches no flag; none
makes a bus event. -/
def Obligations.TransfersCopyTheRegister : Prop :=
  ∀ s : State,
    (∃ t, exec .tax s = .next t ∧ t.regs = { s.regs with x := s.regs.a, p := t.regs.p, crossed := false } ∧
      t.bus = s.bus ∧ NZFrom s.regs.a t ∧ SameFlagsExcept [flagN, flagZ] s t ∧ SameSurroundings s t) ∧
    (∃ t, exec .tay s = .next t ∧ t.regs = { s.regs with y := s.regs.a, p := t.regs.p, crossed := false } ∧
      t.bus = s.bus ∧ NZFrom s.regs.a t ∧ SameFlagsExcept [flagN, flagZ] s t ∧ SameSurroundings s t) ∧
    (∃ t, exec .txa s = .next t ∧ t.regs = { s.regs with a := s.regs.x, p := t.regs.p, crossed := false } ∧
      t.bus = s.bus ∧ NZFrom s.regs.x t ∧ SameFlagsExcept [flagN, flagZ] s t ∧ SameSurroundings s t) ∧
    (∃ t, exec .tya s = .next t ∧ t.regs = { s.regs with a := s.regs.y, p := t.regs.p, crossed := false } ∧
      t.bus = s.bus ∧ NZFrom s.regs.y t ∧ SameFlagsExcept [flagN, flagZ] s t ∧ SameSurroundings s t) ∧
    (∃ t, exec .tsx s = .next t ∧ t.regs = { s.regs with x := s.regs.sp, p := t.regs.p, crossed := false } ∧
      t.bus = s.bus ∧ NZFrom s.regs.sp t ∧ SameFlagsExcept [flagN, flagZ] s t ∧ SameSurroundings s t) ∧
    (∃ t, exec .txs s = .next t ∧ t = { s with regs := { s.regs with sp := s.regs.x, crossed := false } })

/-! ### Arithmetic -/

/-- ADC in binary mode: A + M + C modulo 256; C is the unsigned carry, V is set exactly when the signed sum leaves -128 to
127, which is the source's bit formula; N and Z come from the result. -/
def Obligations.AdcBinaryAddsWithCarry : Prop :=
  ∀ (o : Operand) (s : State), (Instr.adc o).wf = true → s.flag flagD = false →
    let m := s.operandByte o
    let c := s.flag flagC
    let sum := s.regs.a.toNat + m.toNat + c.toNat
    ∃ t, exec (.adc o) s = .next t ∧
      t.regs = { s.regs with a := t.regs.a, p := t.regs.p, crossed := s.crossedBy o } ∧
      t.regs.a.toNat = sum % 256 ∧ t.flag flagC = decide (sum > 255) ∧ NZFrom t.regs.a t ∧
      t.flag flagV = ((~~~(s.regs.a ^^^ m) &&& (s.regs.a ^^^ t.regs.a) &&& 0x80) != 0) ∧
      (t.flag flagV = true ↔
        s.regs.a.toInt + m.toInt + c.toNat < -128 ∨ 127 < s.regs.a.toInt + m.toInt + c.toNat) ∧
      SameFlagsExcept [flagN, flagV, flagZ, flagC] s t ∧ ReadsOperandOnly o s t

/-- ADC in decimal mode, for every operand: N and V come from the binary intermediate; A, Z and C from the nibble sums after
the two fix-ups, valid BCD or not; and for valid BCD operands A and C are the decimal sum and carry.  The fix-up arithmetic is
the spec's D15 (log entry 2). -/
def Obligations.AdcDecimalAddsBcd : Prop :=
  ∀ (o : Operand) (s : State), (Instr.adc o).wf = true → s.flag flagD = true →
    let m := s.operandByte o
    let c := s.flag flagC
    let rb := BitVec.ofNat 8 (s.regs.a.toNat + m.toNat + c.toNat)
    let low := s.regs.a.toNat % 16 + m.toNat % 16 + c.toNat
    let lowFixed := if low > 9 then (low + 6) % 16 + 16 else low
    let high := 16 * (s.regs.a.toNat / 16) + 16 * (m.toNat / 16) + lowFixed
    let adjusted := if high ≥ 0xA0 then high + 0x60 else high
    let sum := bcdValue s.regs.a + bcdValue m + c.toNat
    ∃ t, exec (.adc o) s = .next t ∧
      t.regs = { s.regs with a := t.regs.a, p := t.regs.p, crossed := s.crossedBy o } ∧
      t.flag flagN = rb.getLsbD 7 ∧
      t.flag flagV = ((~~~(s.regs.a ^^^ m) &&& (s.regs.a ^^^ rb) &&& 0x80) != 0) ∧
      t.regs.a.toNat = adjusted % 256 ∧ t.flag flagC = decide (adjusted ≥ 256) ∧
      t.flag flagZ = decide (t.regs.a = 0) ∧
      (validBcd s.regs.a = true → validBcd m = true →
        validBcd t.regs.a = true ∧ bcdValue t.regs.a = sum % 100 ∧ t.flag flagC = decide (sum ≥ 100)) ∧
      SameFlagsExcept [flagN, flagV, flagZ, flagC] s t ∧ ReadsOperandOnly o s t

/-- SBC in binary mode: A - M - (1 - C) modulo 256; C says "no borrow", V is set exactly when the signed difference leaves
-128 to 127.  (C as "no borrow" is the spec's general knowledge G3, log entry 2.) -/
def Obligations.SbcBinarySubtractsWithBorrow : Prop :=
  ∀ (o : Operand) (s : State), (Instr.sbc o).wf = true → s.flag flagD = false →
    let m := s.operandByte o
    let c := s.flag flagC
    let d : Int := (s.regs.a.toNat : Int) - m.toNat - (1 - c.toNat)
    ∃ t, exec (.sbc o) s = .next t ∧
      t.regs = { s.regs with a := t.regs.a, p := t.regs.p, crossed := s.crossedBy o } ∧
      (t.regs.a.toNat : Int) = d % 256 ∧ t.flag flagC = decide (0 ≤ d) ∧ NZFrom t.regs.a t ∧
      t.flag flagV = (((s.regs.a ^^^ m) &&& (s.regs.a ^^^ t.regs.a) &&& 0x80) != 0) ∧
      (t.flag flagV = true ↔
        s.regs.a.toInt - m.toInt - (1 - (c.toNat : Int)) < -128 ∨ 127 < s.regs.a.toInt - m.toInt - (1 - (c.toNat : Int))) ∧
      SameFlagsExcept [flagN, flagV, flagZ, flagC] s t ∧ ReadsOperandOnly o s t

/-- SBC in decimal mode, for every operand: N and V come from the binary intermediate, C is its "no borrow", A and Z come from
the nibble differences after the two fix-ups, valid BCD or not; and for valid BCD operands A is the decimal difference.  The
fix-up arithmetic, and C as "no borrow", are the spec's D15 and G3 (log entry 2). -/
def Obligations.SbcDecimalSubtractsBcd : Prop :=
  ∀ (o : Operand) (s : State), (Instr.sbc o).wf = true → s.flag flagD = true →
    let m := s.operandByte o
    let c := s.flag flagC
    let d : Int := (s.regs.a.toNat : Int) - m.toNat - (1 - c.toNat)
    let rb := BitVec.ofInt 8 d
    let low : Int := (s.regs.a.toNat % 16 : Nat) - (m.toNat % 16 : Nat) + c.toNat - 1
    let lowFixed : Int := if low < 0 then (low - 6) % 16 - 16 else low
    let high : Int := 16 * (s.regs.a.toNat / 16 : Nat) - 16 * (m.toNat / 16 : Nat) + lowFixed
    let adjusted : Int := if high < 0 then high - 0x60 else high
    let diff : Int := (bcdValue s.regs.a : Int) - bcdValue m - (1 - c.toNat)
    ∃ t, exec (.sbc o) s = .next t ∧
      t.regs = { s.regs with a := t.regs.a, p := t.regs.p, crossed := s.crossedBy o } ∧
      t.flag flagN = rb.getLsbD 7 ∧
      t.flag flagV = (((s.regs.a ^^^ m) &&& (s.regs.a ^^^ rb) &&& 0x80) != 0) ∧
      (t.regs.a.toNat : Int) = adjusted % 256 ∧
      t.flag flagZ = decide (t.regs.a = 0) ∧ t.flag flagC = decide (0 ≤ d) ∧
      (validBcd s.regs.a = true → validBcd m = true →
        validBcd t.regs.a = true ∧ (bcdValue t.regs.a : Int) = diff % 100 ∧ t.flag flagC = decide (0 ≤ diff)) ∧
      SameFlagsExcept [flagN, flagV, flagZ, flagC] s t ∧ ReadsOperandOnly o s t

/-- The compares: the register minus M; C is "no borrow", N is bit 7 of the low byte, Z says it is zero.  The input carry and
D are not used, V is not written, and no register and no byte of memory changes. -/
def Obligations.ComparesSetCarryNegativeZero : Prop :=
  ∀ (o : Operand) (s : State),
    let m := s.operandByte o
    let Outcome (reg : Byte) (t : State) : Prop :=
      t.regs = { s.regs with p := t.regs.p, crossed := s.crossedBy o } ∧
      t.flag flagC = decide (0 ≤ (reg.toNat : Int) - m.toNat) ∧
      t.flag flagN = (BitVec.ofInt 8 ((reg.toNat : Int) - m.toNat)).getLsbD 7 ∧
      t.flag flagZ = decide (reg = m) ∧
      SameFlagsExcept [flagN, flagZ, flagC] s t ∧ ReadsOperandOnly o s t
    ((Instr.cmp o).wf = true → ∃ t, exec (.cmp o) s = .next t ∧ Outcome s.regs.a t) ∧
    ((Instr.cpx o).wf = true → ∃ t, exec (.cpx o) s = .next t ∧ Outcome s.regs.x t) ∧
    ((Instr.cpy o).wf = true → ∃ t, exec (.cpy o) s = .next t ∧ Outcome s.regs.y t)

/-- INC and DEC: one read and one write at the effective address, the byte plus or minus 1 modulo 256, N and Z from it (that
there is exactly one write is the spec's D16, log entry 23). -/
def Obligations.IncrementAndDecrementMemory : Prop :=
  ∀ (o : Operand) (s : State), s.bus.mem.wf = true →
    let e := s.evaluate o
    let v := s.operandByte o
    let Outcome (r : Byte) (t : State) : Prop :=
      t.regs = { s.regs with p := t.regs.p, crossed := s.crossedBy o } ∧ NZFrom r t ∧
      SameFlagsExcept [flagN, flagZ] s t ∧ StoresByte [.read e.1 v] e.1 r e.2 t ∧ SameSurroundings s t
    ((Instr.inc o).wf = true →
      ∃ t, exec (.inc o) s = .next t ∧ Outcome (BitVec.ofNat 8 (v.toNat + 1)) t) ∧
    ((Instr.dec o).wf = true →
      ∃ t, exec (.dec o) s = .next t ∧ Outcome (BitVec.ofInt 8 ((v.toNat : Int) - 1)) t)

/-- INX, INY, DEX, DEY: the index register plus or minus 1 modulo 256, N and Z from it, no bus event. -/
def Obligations.IncrementAndDecrementRegisters : Prop :=
  ∀ s : State,
    let Outcome (r : Byte) (t : State) : Prop :=
      NZFrom r t ∧ SameFlagsExcept [flagN, flagZ] s t ∧ t.bus = s.bus ∧ SameSurroundings s t
    let x := s.regs.x.toNat
    let y := s.regs.y.toNat
    (∃ t, exec .inx s = .next t ∧ Outcome (BitVec.ofNat 8 (x + 1)) t ∧
      t.regs = { s.regs with x := BitVec.ofNat 8 (x + 1), p := t.regs.p, crossed := false }) ∧
    (∃ t, exec .iny s = .next t ∧ Outcome (BitVec.ofNat 8 (y + 1)) t ∧
      t.regs = { s.regs with y := BitVec.ofNat 8 (y + 1), p := t.regs.p, crossed := false }) ∧
    (∃ t, exec .dex s = .next t ∧ Outcome (BitVec.ofInt 8 ((x : Int) - 1)) t ∧
      t.regs = { s.regs with x := BitVec.ofInt 8 ((x : Int) - 1), p := t.regs.p, crossed := false }) ∧
    (∃ t, exec .dey s = .next t ∧ Outcome (BitVec.ofInt 8 ((y : Int) - 1)) t ∧
      t.regs = { s.regs with y := BitVec.ofInt 8 ((y : Int) - 1), p := t.regs.p, crossed := false })

/-- Of the instructions that neither push P nor write D, only ADC and SBC depend on D: on a state that differs in D alone
every other one ends in a state that differs in D alone. -/
def Obligations.OnlyAdcAndSbcReadD : Prop :=
  ∀ (i : Instr) (s t : State) (d : Bool),
    i.mnemonic ∉ [.adc, .sbc, .php, .brk, .cld, .sed, .plp, .rti] → exec i s = .next t →
      exec i (s.setFlag flagD d) = .next (t.setFlag flagD d)

/-! ### Logic, shifts, bit test -/

/-- AND, EOR, ORA: the bitwise operation into A, N and Z from the new A. -/
def Obligations.LogicalOperationsIntoA : Prop :=
  ∀ (o : Operand) (s : State),
    let m := s.operandByte o
    let Outcome (r : Byte) (t : State) : Prop :=
      t.regs = { s.regs with a := r, p := t.regs.p, crossed := s.crossedBy o } ∧
      NZFrom r t ∧ SameFlagsExcept [flagN, flagZ] s t ∧ ReadsOperandOnly o s t
    ((Instr.and o).wf = true → ∃ t, exec (.and o) s = .next t ∧ Outcome (s.regs.a &&& m) t) ∧
    ((Instr.eor o).wf = true → ∃ t, exec (.eor o) s = .next t ∧ Outcome (s.regs.a ^^^ m) t) ∧
    ((Instr.ora o).wf = true → ∃ t, exec (.ora o) s = .next t ∧ Outcome (s.regs.a ||| m) t)

/-- ASL, LSR, ROL, ROR on A, by value: twice or half of it, the old carry entering the vacated bit of a rotate; C is the bit
shifted out; no bus event. -/
def Obligations.ShiftsOfTheAccumulator : Prop :=
  ∀ s : State,
    let a := s.regs.a.toNat
    let c := (s.flag flagC).toNat
    let Outcome (r : Nat) (carry : Bool) (t : State) : Prop :=
      t.regs = { s.regs with a := BitVec.ofNat 8 r, p := t.regs.p, crossed := false } ∧
      t.flag flagC = carry ∧ NZFrom t.regs.a t ∧ SameFlagsExcept [flagN, flagZ, flagC] s t ∧
      t.bus = s.bus ∧ SameSurroundings s t
    (∃ t, exec (.asl .acc) s = .next t ∧ Outcome (2 * a) (decide (128 ≤ a)) t) ∧
    (∃ t, exec (.lsr .acc) s = .next t ∧ Outcome (a / 2) (decide (a % 2 = 1)) t) ∧
    (∃ t, exec (.rol .acc) s = .next t ∧ Outcome (2 * a + c) (decide (128 ≤ a)) t) ∧
    (∃ t, exec (.ror .acc) s = .next t ∧ Outcome (a / 2 + 128 * c) (decide (a % 2 = 1)) t)

/-- ASL, LSR, ROL, ROR on memory: one read and then one write at the same address, with the value and the carry of the
accumulator forms; A is not touched (that there is exactly one write is the spec's D16, log entry 23). -/
def Obligations.ShiftsOfMemory : Prop :=
  ∀ (o : Operand) (s : State), s.bus.mem.wf = true → o ≠ .acc →
    let e := s.evaluate o
    let v := s.operandByte o
    let n := v.toNat
    let c := (s.flag flagC).toNat
    let Outcome (r : Nat) (carry : Bool) (t : State) : Prop :=
      t.regs = { s.regs with p := t.regs.p, crossed := s.crossedBy o } ∧
      t.flag flagC = carry ∧ NZFrom (BitVec.ofNat 8 r) t ∧ SameFlagsExcept [flagN, flagZ, flagC] s t ∧
      StoresByte [.read e.1 v] e.1 (BitVec.ofNat 8 r) e.2 t ∧ SameSurroundings s t
    ((Instr.asl o).wf = true → ∃ t, exec (.asl o) s = .next t ∧ Outcome (2 * n) (decide (128 ≤ n)) t) ∧
    ((Instr.lsr o).wf = true → ∃ t, exec (.lsr o) s = .next t ∧ Outcome (n / 2) (decide (n % 2 = 1)) t) ∧
    ((Instr.rol o).wf = true → ∃ t, exec (.rol o) s = .next t ∧ Outcome (2 * n + c) (decide (128 ≤ n)) t) ∧
    ((Instr.ror o).wf = true → ∃ t, exec (.ror o) s = .next t ∧ Outcome (n / 2 + 128 * c) (decide (n % 2 = 1)) t)

/-- BIT: Z says whether A and M have no bit in common, N and V are bits 7 and 6 of M; A and memory are unchanged. -/
def Obligations.BitTestsMemoryAgainstA : Prop :=
  ∀ (o : Operand) (s : State), (Instr.bit o).wf = true →
    let m := s.operandByte o
    ∃ t, exec (.bit o) s = .next t ∧
      t.regs = { s.regs with p := t.regs.p, crossed := s.crossedBy o } ∧
      t.flag flagZ = decide (s.regs.a &&& m = 0) ∧ t.flag flagN = m.getLsbD 7 ∧ t.flag flagV = m.getLsbD 6 ∧
      SameFlagsExcept [flagN, flagV, flagZ] s t ∧ ReadsOperandOnly o s t

/-! ### Control flow -/

/-- The branch function: if the condition holds PC is the target and one cycle is added, two if the target lies on another
page; else PC stays at the next instruction and none is added.  No flag, other register or byte of memory is written and no
bus event is made; all eight opcodes are two bytes in mode REL with base 2.  (That the page is that of the next instruction
is the spec's D14 and the target's wrap its D11, log entry 23; that the extra cycles are added when the branch executes is
log entry 15.) -/
def Obligations.BranchesTakenAndNotTaken : Prop :=
  (∀ (s : State) (offset : Byte) (i : Instr),
    i ∈ [.bcc (.rel offset), .bcs (.rel offset), .beq (.rel offset), .bne (.rel offset), .bmi (.rel offset),
      .bpl (.rel offset), .bvc (.rel offset), .bvs (.rel offset)] →
    let ea := BitVec.ofInt 16 ((s.regs.pc.toNat : Int) + offset.toInt)
    let crossed := decide (ea.toNat / 256 ≠ s.regs.pc.toNat / 256)
    exec i s = .next { s with
      regs := { s.regs with
        pc := if branchTaken i.mnemonic s.regs.p then ea else s.regs.pc
        cyc := s.regs.cyc +
          BitVec.ofNat 64 (if branchTaken i.mnemonic s.regs.p then (if crossed then 2 else 1) else 0)
        crossed := crossed } }) ∧
  (∀ r ∈ opcodeTable, r.mode = .rel → r.cycles = 2 ∧ r.penalty = false ∧
    r.mnemonic ∈ [.bcc, .bcs, .beq, .bne, .bmi, .bpl, .bvc, .bvs]) ∧
  (opcodeTable.filter fun r => r.mode == .rel).length = 8

/-- JSR pushes the address of its own last byte, PC minus 1, high byte then low, and sets PC to the target; no flag and no
other register changes (that PC minus 1 wraps modulo 65,536 is the spec's D11, log entry 23). -/
def Obligations.JsrPushesTheReturnAddress : Prop :=
  ∀ (s : State) (target : Word), s.bus.mem.wf = true →
    let r := BitVec.ofInt 16 ((s.regs.pc.toNat : Int) - 1)
    let high := stackSlot s.regs.sp
    let low := stackSlot (s.regs.sp - 1)
    ∃ t, exec (.jsr (.abs target)) s = .next t ∧
      t.regs = { s.regs with pc := target, sp := s.regs.sp - 2, crossed := false } ∧
      StoresAll [(high, hiByte r), (low, loByte r)] s t ∧
      Emits s t [.write high (hiByte r), .write low (loByte r)] ∧ SameSurroundings s t

/-- RTS pulls the low byte and then the high byte and sets PC to the pulled address plus one, modulo 65,536 (the
wrap is the spec's D11, log entry 23). -/
def Obligations.RtsReturnsPastThePulledAddress : Prop :=
  ∀ (s : State) (l h : Byte),
    let low := stackSlot (s.regs.sp + 1)
    let high := stackSlot (s.regs.sp + 2)
    s.bus.answersTo [low, high] = [l, h] →
      ∃ t, exec .rts s = .next t ∧
        t.regs = { s.regs with
          pc := BitVec.ofNat 16 (256 * h.toNat + l.toNat + 1), sp := s.regs.sp + 2, crossed := false } ∧
        SameMemoryExcept [] s t ∧ Emits s t [.read low l, .read high h] ∧ SameSurroundings s t

/-- RTI pulls P (bit 5 forced, bit 4 kept), then PC low and high with no increment; an NMI in service is over, and in the
other two states of the NMI sequencer nothing happens to it (that the first RTI re-arms is the spec's D9, that bit 4 is kept
its D5; log entry 23). -/
def Obligations.RtiRestoresStatusAndPC : Prop :=
  ∀ (s : State) (p l h : Byte),
    let a₁ := stackSlot (s.regs.sp + 1)
    let a₂ := stackSlot (s.regs.sp + 2)
    let a₃ := stackSlot (s.regs.sp + 3)
    s.bus.answersTo [a₁, a₂, a₃] = [p, l, h] →
      ∃ t, exec .rti s = .next t ∧
        t.regs = { s.regs with
          p := (p &&& 0xCF) ||| (s.regs.p &&& 0x10) ||| 0x20
          pc := wordOf h l
          sp := s.regs.sp + 3
          nmiState := if s.regs.nmiState = .inService then .armed else s.regs.nmiState
          crossed := false } ∧
        SameMemoryExcept [] s t ∧ Emits s t [.read a₁ p, .read a₂ l, .read a₃ h] ∧ SameSurroundings s t

/-- BRK, whose PC is one past its opcode when it executes: PC + 1 is pushed, high byte then low, then P with bits 5 and 4
set; I is set, D and the other flags are not touched, and PC is loaded from 0xFFFE and 0xFFFF.  It is not masked by I and
does not touch the NMI sequencer (that D is left alone is the spec's D22, the wrap of PC + 1 its D11, the low byte of the
vector read first its D16; log entry 23). -/
def Obligations.BrkTakesTheSoftwareInterrupt : Prop :=
  ∀ (s : State) (l h : Byte), s.bus.mem.wf = true →
    let r := BitVec.ofNat 16 (s.regs.pc.toNat + 1)
    let a₁ := stackSlot s.regs.sp
    let a₂ := stackSlot (s.regs.sp - 1)
    let a₃ := stackSlot (s.regs.sp - 2)
    let p := s.regs.p ||| 0x30
    s.bus.answersTo [0xFFFE, 0xFFFF] = [l, h] →
      ∃ t, exec .brk s = .next t ∧
        t.regs = { s.regs with
          pc := wordOf h l, sp := s.regs.sp - 3, p := s.regs.p ||| 0x04, crossed := false } ∧
        StoresAll [(a₁, hiByte r), (a₂, loByte r), (a₃, p)] s t ∧
        Emits s t [.write a₁ (hiByte r), .write a₂ (loByte r), .write a₃ p, .read 0xFFFE l, .read 0xFFFF h] ∧
        SameSurroundings s t

/-- JSR and then RTS come back to the byte after the JSR's operand with SP as it was, if the two stack slots are plain
memory, whatever A, X, Y and P are in between. -/
def Obligations.JsrThenRtsReturns : Prop :=
  ∀ (s t : State) (target : Word) (a x y p : Byte), s.bus.mem.wf = true →
    s.bus.kindAt (stackSlot s.regs.sp) = none → s.bus.kindAt (stackSlot (s.regs.sp - 1)) = none →
    exec (.jsr (.abs target)) s = .next t →
      ∃ u, exec .rts ((((t.setA a).setX x).setY y).setP p) = .next u ∧
        u.regs.pc = s.regs.pc ∧ u.regs.sp = s.regs.sp ∧ u.bus.mem = t.bus.mem

/-- BRK and then RTI come back to the byte after the signature with SP as it was, P restored but for bits 4 and 5 and so the
interrupted program's I, if the three stack slots are plain memory (the wrap of PC is the spec's D11, log entry 23). -/
def Obligations.BrkThenRtiReturns : Prop :=
  ∀ (s t : State), s.bus.mem.wf = true →
    s.bus.kindAt (stackSlot s.regs.sp) = none → s.bus.kindAt (stackSlot (s.regs.sp - 1)) = none →
    s.bus.kindAt (stackSlot (s.regs.sp - 2)) = none →
    exec .brk s = .next t →
      ∃ u, exec .rti t = .next u ∧ u.regs.pc.toNat = (s.regs.pc.toNat + 1) % 65536 ∧ u.regs.sp = s.regs.sp ∧
        SameFlagsExcept [4, 5] s u

/-! ### Flags, stack, NOP, ILLEGAL -/

/-- Each flag instruction writes its one bit of P and nothing else, and makes no bus event. -/
def Obligations.FlagInstructionsWriteOneBit : Prop :=
  ∀ s : State,
    let withP (p : Byte) : State := { s with regs := { s.regs with p := p, crossed := false } }
    exec .clc s = .next (withP (s.regs.p &&& 0xFE)) ∧ exec .sec s = .next (withP (s.regs.p ||| 0x01)) ∧
    exec .cld s = .next (withP (s.regs.p &&& 0xF7)) ∧ exec .sed s = .next (withP (s.regs.p ||| 0x08)) ∧
    exec .cli s = .next (withP (s.regs.p &&& 0xFB)) ∧ exec .sei s = .next (withP (s.regs.p ||| 0x04)) ∧
    exec .clv s = .next (withP (s.regs.p &&& 0xBF))

/-- PHA pushes A, and PHP pushes P with bits 5 and 4 set: one write at `0x0100 + SP`, SP minus 1; no flag and no other
register changes. -/
def Obligations.PushesOfAAndP : Prop :=
  ∀ s : State, s.bus.mem.wf = true →
    let Outcome (v : Byte) (t : State) : Prop :=
      t.regs = { s.regs with sp := s.regs.sp - 1, crossed := false } ∧
      StoresByte [] (stackSlot s.regs.sp) v s t ∧ SameSurroundings s t
    (∃ t, exec .pha s = .next t ∧ Outcome s.regs.a t) ∧
    (∃ t, exec .php s = .next t ∧ Outcome (s.regs.p ||| 0x30) t)

/-- PLA and PLP: one read at `0x0100 + SP` after SP plus 1.  PLA loads A and sets N and Z; PLP loads N, V, D, I, Z and C, forces
bit 5 and keeps the stored bit 4 (the spec's D5, log entry 23). -/
def Obligations.PullsOfAAndP : Prop :=
  ∀ s : State,
    let slot := stackSlot (s.regs.sp + 1)
    let v := s.bus.value slot
    let Reads (t : State) : Prop := SameMemoryExcept [] s t ∧ Emits s t [.read slot v] ∧ SameSurroundings s t
    (∃ t, exec .pla s = .next t ∧
      t.regs = { s.regs with a := v, p := t.regs.p, sp := s.regs.sp + 1, crossed := false } ∧
      NZFrom v t ∧ SameFlagsExcept [flagN, flagZ] s t ∧ Reads t) ∧
    (∃ t, exec .plp s = .next t ∧
      t.regs = { s.regs with
        p := (v &&& 0xCF) ||| (s.regs.p &&& 0x10) ||| 0x20, sp := s.regs.sp + 1, crossed := false } ∧
      Reads t)

/-- NOP changes nothing that persists: no register, no flag, no byte of memory, and it makes no bus event.  ILLEGAL sets the
latch and changes nothing else. -/
def Obligations.NopAndIllegal : Prop :=
  ∀ (s : State) (opcode : Byte),
    exec .nop s = .next { s with regs := { s.regs with crossed := false } } ∧
    exec (.illegal opcode) s = .next { s with regs := { s.regs with halt := true, crossed := false } }

/-- PHA and then PLA restore A, and N and Z come from it; PHP and then PLP restore P but for bits 4 and 5, whatever P was
in between; SP comes back in both, if the stack slot is plain memory (that bit 4 after PLP is the stored bit 4 is the spec's
D5, log entry 23). -/
def Obligations.PushThenPullRestores : Prop :=
  ∀ (s t : State) (q : Byte), s.bus.mem.wf = true → s.bus.kindAt (stackSlot s.regs.sp) = none →
    (exec .pha s = .next t →
      ∃ u, exec .pla (t.setA q) = .next u ∧ u.regs.a = s.regs.a ∧ u.regs.sp = s.regs.sp ∧ NZFrom s.regs.a u) ∧
    (exec .php s = .next t →
      ∃ u, exec .plp (t.setP q) = .next u ∧ u.regs.sp = s.regs.sp ∧ SameFlagsExcept [4, 5] s u ∧
        getFlag 5 u.regs.p = true ∧ getFlag 4 u.regs.p = getFlag 4 q)

/-- The byte pushed for P: bit 5 is set in every copy, bit 4 is set in the copy of PHP and BRK and clear in that of an NMI or
IRQ service, the other six bits are those of P; and making the copy does not change P: PHP leaves P alone, BRK and a service
change it in I only (that D is left alone is the spec's D22, log entry 23). -/
def Obligations.PushedCopyOfStatus : Prop :=
  (∀ p : Byte, pushedP true p = p ||| 0x30 ∧ pushedP false p = (p &&& 0xEF) ||| 0x20 ∧
    getFlag 4 (pushedP true p) = true ∧ getFlag 4 (pushedP false p) = false) ∧
  (∀ s : State, ∃ t, exec .php s = .next t ∧ t.regs.p = s.regs.p ∧
    Emits s t [.write (stackSlot s.regs.sp) (s.regs.p ||| 0x30)]) ∧
  (∀ s : State, ∃ t, exec .brk s = .next t ∧ t.regs.p = s.regs.p ||| 0x04 ∧
    BusEvent.write (stackSlot (s.regs.sp - 2)) (s.regs.p ||| 0x30) ∈ t.bus.events.take 3) ∧
  (∀ (s : State) (vector : Word), vector = nmiVector ∨ vector = irqVector →
    (s.service vector).regs.p = s.regs.p ||| 0x04 ∧
    BusEvent.write (stackSlot (s.regs.sp - 2)) ((s.regs.p &&& 0xEF) ||| 0x20) ∈ (s.service vector).bus.events.take 3)

/-- The whole step of an illegal opcode, with no interrupt to service: one read, at PC; PC is one past the opcode, IR holds it,
HALT is set, no cycle is added, and no other register, flag or byte of memory changes (that no operand byte is fetched, that PC
is past the opcode and that no cycle is charged is the spec's D12, log entry 23; which bytes are illegal is log entry 1). -/
def Obligations.IllegalOpcodeStep : Prop :=
  ∀ s : State, s.cfg.undocumentedOpcodes = false → s.alive = true → s.services = false →
    illegalBytes.contains (s.bus.value s.regs.pc) = true →
      ∃ t, stepOnce s = .next t ∧
        t.regs = { s.regs with
          pc := BitVec.ofNat 16 (s.regs.pc.toNat + 1), ir := s.bus.value s.regs.pc, halt := true
          nmiPrev := s.inputs.nmi, crossed := false } ∧
        SameMemoryExcept [] s t ∧ Emits s t [.read s.regs.pc (s.bus.value s.regs.pc)] ∧
        t.ticks = s.ticks ∧ t.inputs = s.inputs ∧ t.cfg = s.cfg ∧ t.bus.regions = s.bus.regions ∧ t.alive = false

/-! ### What each instruction may write, over all instructions -/

/-- The registers: A, X, Y, SP and PC change only under the instructions that the spec's list names, CYC only under a branch
(its extra cycles; the step adds the rest), the NMI state only under RTI, the latch only under ILLEGAL; IR, the NMI input's
last level, the inputs, the parameters, the regions and the ticks under none.  (That CYC changes inside `exec` under a branch
is the model's choice of where a step adds its cycles, log entry 15.) -/
def Obligations.OnlyTheListedInstructionsWriteRegisters : Prop :=
  ∀ (i : Instr) (s t : State), exec i s = .next t →
    (t.regs.a ≠ s.regs.a → i.mnemonic ∈ [.lda, .txa, .tya, .pla, .adc, .sbc, .and, .eor, .ora] ∨
      (i.mnemonic ∈ [.asl, .lsr, .rol, .ror] ∧ i.operand = .acc)) ∧
    (t.regs.x ≠ s.regs.x → i.mnemonic ∈ [.ldx, .tax, .tsx, .inx, .dex]) ∧
    (t.regs.y ≠ s.regs.y → i.mnemonic ∈ [.ldy, .tay, .iny, .dey]) ∧
    (t.regs.sp ≠ s.regs.sp → i.mnemonic ∈ [.txs, .pha, .php, .pla, .plp, .jsr, .rts, .rti, .brk]) ∧
    (t.regs.pc ≠ s.regs.pc →
      i.mnemonic ∈ [.bcc, .bcs, .beq, .bne, .bmi, .bpl, .bvc, .bvs, .jmp, .jsr, .rts, .rti, .brk]) ∧
    (t.regs.cyc ≠ s.regs.cyc → i.mnemonic ∈ [.bcc, .bcs, .beq, .bne, .bmi, .bpl, .bvc, .bvs]) ∧
    (t.regs.nmiState ≠ s.regs.nmiState → i.mnemonic = .rti) ∧ (t.regs.halt ≠ s.regs.halt → i.mnemonic = .illegal) ∧
    SameSurroundings s t

/-- The flags: each flag of P changes only under the instructions that the spec's list names, and bit 4 under none; bit 5
changes only to 1 (that bit 4 is stored and kept by every instruction, PLP and RTI among them, is the spec's D5, and that BRK
leaves D alone its D22; log entry 23). -/
def Obligations.OnlyTheListedInstructionsWriteFlags : Prop :=
  ∀ (i : Instr) (s t : State), exec i s = .next t →
    (t.flag flagN ≠ s.flag flagN ∨ t.flag flagZ ≠ s.flag flagZ →
      i.mnemonic ∈ [.lda, .ldx, .ldy, .tax, .tay, .txa, .tya, .tsx, .pla, .adc, .sbc, .and, .eor, .ora, .asl, .lsr, .rol,
        .ror, .bit, .cmp, .cpx, .cpy, .inc, .dec, .inx, .iny, .dex, .dey, .plp, .rti]) ∧
    (t.flag flagV ≠ s.flag flagV → i.mnemonic ∈ [.adc, .sbc, .bit, .clv, .plp, .rti]) ∧
    (t.flag flagD ≠ s.flag flagD → i.mnemonic ∈ [.sed, .cld, .plp, .rti]) ∧
    (t.flag flagI ≠ s.flag flagI → i.mnemonic ∈ [.sei, .cli, .brk, .plp, .rti]) ∧
    (t.flag flagC ≠ s.flag flagC →
      i.mnemonic ∈ [.adc, .sbc, .asl, .lsr, .rol, .ror, .cmp, .cpx, .cpy, .sec, .clc, .plp, .rti]) ∧
    t.flag flagB = s.flag flagB ∧ (getFlag 5 s.regs.p = true → getFlag 5 t.regs.p = true)

/-- Memory: a byte changes only under a store or a read-modify-write instruction at its effective address, or under PHA, PHP,
JSR or BRK in page 1, and only where memory is plain (what a write elsewhere does is log entry 7). -/
def Obligations.OnlyTheListedInstructionsWriteMemory : Prop :=
  ∀ (i : Instr) (s t : State) (a : Word), s.bus.mem.wf = true → exec i s = .next t →
    t.bus.mem.read a.toNat ≠ s.bus.mem.read a.toNat →
      s.bus.kindAt a = none ∧
      ((i.mnemonic ∈ [.sta, .stx, .sty, .inc, .dec] ∧ a = (s.evaluate i.operand).1) ∨
        (i.mnemonic ∈ [.asl, .lsr, .rol, .ror] ∧ i.operand ≠ .acc ∧ a = (s.evaluate i.operand).1) ∨
        (i.mnemonic ∈ [.pha, .php, .jsr, .brk] ∧ a.toNat / 256 = 1))

/-! ### Interrupts and reset -/

/-- The service of an NMI or an IRQ: PC high, PC low and P with bit 4 clear are pushed, I is set, D is left alone, PC comes
from the vector, 7 cycles are accounted; A, X, Y and the other flags are not written (the order and number of the bus events
are the spec's D16, the 7 its D8, D left alone its D22; log entry 23). -/
def Obligations.InterruptServiceSequence : Prop :=
  ∀ (s : State) (vector : Word) (l h : Byte), s.bus.mem.wf = true → vector = nmiVector ∨ vector = irqVector →
    let a₁ := stackSlot s.regs.sp
    let a₂ := stackSlot (s.regs.sp - 1)
    let a₃ := stackSlot (s.regs.sp - 2)
    let p := (s.regs.p &&& 0xEF) ||| 0x20
    let t := s.service vector
    s.bus.answersTo [vector, vector + 1] = [l, h] →
      t.regs = { s.regs with
        pc := wordOf h l, sp := s.regs.sp - 3, p := s.regs.p ||| 0x04, cyc := s.regs.cyc + 7 } ∧
      StoresAll [(a₁, hiByte s.regs.pc), (a₂, loByte s.regs.pc), (a₃, p)] s t ∧
      Emits s t [.write a₁ (hiByte s.regs.pc), .write a₂ (loByte s.regs.pc), .write a₃ p,
        .read vector l, .read (vector + 1) h] ∧ SameSurroundings s t

/-- At the start of a step the NMI wins: with an NMI pending after the sampling of its line, that one is serviced through
0xFFFA, whatever the IRQ line and I are, the sequencer is in service and I is set; at most one interrupt is serviced (the
sampling point is the spec's D18, log entry 23). -/
def Obligations.NmiWinsOverIrq : Prop :=
  ∀ s : State, (s.nmiInput s.inputs.nmi).regs.nmiState = .pending →
    let t := s.sampleInterrupts
    t.regs.nmiState = .inService ∧ t.regs.pc = wordOf ((s.bus.afterRead 0xFFFA).value 0xFFFB) (s.bus.value 0xFFFA) ∧
    t.regs.sp = s.regs.sp - 3 ∧ t.flag flagI = true ∧ t.regs.cyc = s.regs.cyc + 7 ∧
    t.bus.events.length = s.bus.events.length + 5

/-- The IRQ is a level read: with no NMI pending, a step services it exactly if the line is asserted and I is clear when the
step begins; otherwise nothing is serviced.  Nothing is latched: a line asserted and released before the step leaves no
trace.  The service sets I, so while I stays set a line still asserted is not serviced; after an RTI that restores I = 0 with
the line still asserted the next step services it again. -/
def Obligations.IrqIsALevelRead : Prop :=
  (∀ s : State, let n := s.nmiInput s.inputs.nmi
    n.regs.nmiState ≠ .pending →
      (s.inputs.irq = true ∧ s.flag flagI = false →
        s.sampleInterrupts = n.service irqVector ∧ s.sampleInterrupts.flag flagI = true) ∧
      (¬ (s.inputs.irq = true ∧ s.flag flagI = false) → s.sampleInterrupts = n)) ∧
  (∀ s : State, (s.irqLine true).irqLine false = s.irqLine false) ∧
  (∀ s t : State, exec .rti s = .next t → s.inputs.irq = true → t.flag flagI = false → t.services = true)

/-- The NMI edge detector over any sequence of presented levels: from armed, an NMI is pending at the end exactly if the
sequence, with the last level seen before it, has a false followed at once by a true; otherwise the state stays armed.  From
pending or in service every edge is dropped.  The last level presented is remembered (that the ignored edges are dropped is
the spec's D9, log entry 23; how levels reach the detector is log entry 20). -/
def Obligations.NmiEdgeDetector : Prop :=
  ∀ (s : State) (levels : List Bool),
    let t := levels.foldl State.nmiInput s
    (s.regs.nmiState = .armed →
      t.regs.nmiState = if [false, true] <:+: (s.regs.nmiPrev :: levels) then .pending else .armed) ∧
    (s.regs.nmiState ≠ .armed → t.regs.nmiState = s.regs.nmiState) ∧
    t.regs.nmiPrev = levels.getLastD s.regs.nmiPrev

/-- An NMI in service is not entered again before an RTI: a step from that state services no NMI, at most an IRQ, and leaves
the state, unless the instruction it runs is RTI, which re-arms; a pending NMI is serviced, through 0xFFFA, by the very next
step; and from armed without an edge none is serviced (the spec's D9 and, for the sampling point, D18; log entry 23). -/
def Obligations.NmiIsNotReenteredBeforeRti : Prop :=
  ∀ s t : State, s.alive = true → stepOnce s = .next t →
    let n := s.nmiInput s.inputs.nmi
    let atMostIrq : State := if s.inputs.irq = true ∧ s.flag flagI = false then n.service 0xFFFE else n
    let left : NmiState := if (descriptor t.regs.ir).mnemonic = .rti then .armed else .inService
    (s.regs.nmiState = .inService → s.sampleInterrupts = atMostIrq ∧ t.regs.nmiState = left) ∧
    (s.regs.nmiState = .pending →
      s.sampleInterrupts = (n.setNmiState .inService).service 0xFFFA ∧ t.regs.nmiState = left) ∧
    (s.regs.nmiState = .armed → (s.inputs.nmi = false ∨ s.regs.nmiPrev = true) →
      s.sampleInterrupts = atMostIrq ∧ t.regs.nmiState = .armed)

/-- A service, and then RTI as the handler's first instruction, resume exactly at the interrupted instruction with SP as it
was, P as it was but for bits 4 and 5, and the NMI sequencer armed after an NMI, if the stack slots are plain memory (that the
first RTI arms is the spec's D9, log entry 23). -/
def Obligations.ServiceThenRtiResumes : Prop :=
  ∀ (s : State) (vector : Word), s.bus.mem.wf = true →
    s.bus.kindAt (stackSlot s.regs.sp) = none → s.bus.kindAt (stackSlot (s.regs.sp - 1)) = none →
    s.bus.kindAt (stackSlot (s.regs.sp - 2)) = none →
      ∃ u, exec .rti (s.service vector) = .next u ∧ u.regs.pc = s.regs.pc ∧ u.regs.sp = s.regs.sp ∧
        u.regs.a = s.regs.a ∧ u.regs.x = s.regs.x ∧ u.regs.y = s.regs.y ∧ SameFlagsExcept [4, 5] s u ∧
        (s.regs.nmiState = .inService → u.regs.nmiState = .armed)

/-- The reset sequence: A, X, Y and P from the parameters (P with bits 5 and 4 set), SP 0xFD, PC from 0xFFFC and 0xFFFD by
exactly two reads, CYC 0, HALT cleared, the NMI sequencer armed; memory, the inputs and the NMI input's last level are left
(the six flag bits are the spec's D2, CYC 0 its D4, NMI_PREV left its D20, the two reads its D26; that IR and CROSSED are
left is the model's choice, log entry 10). -/
def Obligations.ResetSequence : Prop :=
  ∀ (s : State) (l h : Byte), s.bus.answersTo [0xFFFC, 0xFFFD] = [l, h] →
    let t := s.resetSequence
    t.regs = { s.regs with
      a := s.cfg.resetA, x := s.cfg.resetX, y := s.cfg.resetY, sp := 0xFD, pc := wordOf h l, p := s.cfg.resetP ||| 0x30
      cyc := 0, halt := false, nmiState := .armed } ∧
    SameMemoryExcept [] s t ∧ Emits s t [.read 0xFFFC l, .read 0xFFFD h] ∧
    t.ticks = 0 ∧ t.inputs = s.inputs ∧ t.cfg = s.cfg ∧ t.bus.regions = s.bus.regions

/-- The state after reset holds the values that the spec gives with the default parameters, and it is what the reset sequence
makes of a core with empty plain memory and every input deasserted, whatever its registers held, with IR, NMI_PREV and CROSSED
at the model's choice (log entries 5, 10 and 11; the defaults of the parameters are log entry 8, and P's flag bits, CYC 0 and
the two reads are the spec's D2, D4 and D26, log entry 23). -/
def Obligations.StateAfterReset : Prop :=
  (let r := State.reset.regs
   r.a = 0x00 ∧ r.x = 0x00 ∧ r.y = 0x00 ∧ r.sp = 0xFD ∧ r.p = 0x30 ∧ r.cyc = 0 ∧ r.halt = false ∧ r.nmiState = .armed) ∧
  (∀ (a x y sp p : Byte) (pc : Word) (cyc : Cycles) (halt : Bool) (nmi : NmiState) (ticks : Nat),
    State.resetSequence
      { regs := { a := a, x := x, y := y, sp := sp, pc := pc, p := p, ir := 0x00, cyc := cyc, halt := halt, nmiState := nmi,
                  nmiPrev := false, crossed := false }
        bus := { mem := [], regions := [], answers := [], freeReads := 0, events := [] }
        inputs := { irq := false, nmi := false, powerOff := false, moves := [] }
        cfg := Config.standard
        ticks := ticks } = State.reset)

/-! ### The run driver -/

/-- `Run`: from a positive budget it ends with the budget used up or the core not alive; counting cycles it overshoots by at
most 13, counting instructions not at all (the loop condition and the charging are the spec's D13, log entry 23; the bound on
the rounds is log entry 18). -/
def Obligations.RunEndsByBudgetOrNotAlive : Prop :=
  ∀ (method : BudgetMethod) (budget : Int) (s : State), s.cfg.undocumentedOpcodes = false → 0 < budget →
    ∃ t left, runDriver method budget s = .next (t, left) ∧ (left ≤ 0 ∨ t.alive = false) ∧ left ≤ budget ∧
      (method = .cycleCount → -13 ≤ left) ∧ (method = .instructionCount → 0 ≤ left)
end

