-- ==== Sys2Proof/Laws/Decode.lean ====
section
/-! SUPPORT. The opcode table looked up, and words taken apart and put together. -/

namespace Sys2Proof

/-- Every row of the opcode map is the descriptor of its own opcode byte: no two rows overlap. -/
theorem descriptor_of_row : ∀ r ∈ opcodeTable, descriptor r.opcode = r := by decide +kernel

/-- The descriptor of a byte carries that byte. -/
theorem descriptor_opcode : ∀ b : Byte, (descriptor b).opcode = b := by decide +kernel

/-- A byte is an ILLEGAL entry exactly if the spec lists it among the 105 (R83, R85). -/
theorem descriptor_illegal_iff :
    ∀ b : Byte, (descriptor b).mnemonic = .illegal ↔ illegalBytes.contains b = true := by decide +kernel

/-- The descriptor of a byte pairs a mnemonic with one of its modes. -/
theorem descriptor_mode_allowed :
    ∀ b : Byte, (descriptor b).mnemonic.modes.contains (descriptor b).mode = true := by decide +kernel

theorem wordOf_toNat (h l : Byte) : (wordOf h l).toNat = 256 * h.toNat + l.toNat := by
  have e : (h ++ l).toNat = h.toNat <<< 8 ||| l.toNat := BitVec.toNat_append h l
  show (h ++ l).toNat = _
  rw [e, Nat.shiftLeft_eq, Nat.mul_comm, ← Nat.two_pow_add_eq_or_of_lt l.isLt]

theorem loByte_toNat (w : Word) : (loByte w).toNat = w.toNat % 256 := by
  simp [loByte, BitVec.extractLsb'_toNat]

theorem hiByte_toNat (w : Word) : (hiByte w).toNat = w.toNat / 256 := by
  have := w.isLt
  simp [hiByte, BitVec.extractLsb'_toNat, Nat.shiftRight_eq_div_pow]
  omega

@[simp] theorem loByte_wordOf (h l : Byte) : loByte (wordOf h l) = l := by
  apply BitVec.eq_of_toNat_eq
  have := l.isLt
  rw [loByte_toNat, wordOf_toNat]; omega

@[simp] theorem hiByte_wordOf (h l : Byte) : hiByte (wordOf h l) = h := by
  apply BitVec.eq_of_toNat_eq
  have := l.isLt
  rw [hiByte_toNat, wordOf_toNat]; omega

@[simp] theorem wordOf_hi_lo (w : Word) : wordOf (hiByte w) (loByte w) = w := by
  apply BitVec.eq_of_toNat_eq
  rw [wordOf_toNat, hiByte_toNat, loByte_toNat]; omega

/-- The operand a mode reads from the bytes of an operand of that mode is that operand. -/
theorem operand_bytes_roundtrip (o : Operand) :
    match o.bytes with
    | [] => o.mode.operandBytes = 0 ∧ o.mode.operand 0 0 = o
    | [b1] => o.mode.operandBytes = 1 ∧ o.mode.operand b1 0 = o
    | b1 :: b2 :: _ => o.mode.operandBytes = 2 ∧ o.mode.operand b1 b2 = o := by
  cases o <;> simp [Operand.bytes, Operand.mode, Mode.operandBytes, Mode.operand]

end Sys2Proof
end

