-- ==== Sys2Proof/Laws/Flags.lean ====
section
/-! SUPPORT. The bits of P: reading a written flag, and what the writers of P leave. -/

namespace Sys2Proof.Machine

@[simp] theorem flagN_eq : flagN = 7 := rfl
@[simp] theorem flagV_eq : flagV = 6 := rfl
@[simp] theorem flagB_eq : flagB = 4 := rfl
@[simp] theorem flagD_eq : flagD = 3 := rfl
@[simp] theorem flagI_eq : flagI = 2 := rfl
@[simp] theorem flagZ_eq : flagZ = 1 := rfl
@[simp] theorem flagC_eq : flagC = 0 := rfl

/-- `P.f <- v`, read back bit by bit. -/
theorem getLsbD_putFlag (f k : Nat) (v : Bool) (p : Byte) :
    (putFlag f v p).getLsbD k = if k = f ∧ k < 8 then v else p.getLsbD k := by
  unfold putFlag
  by_cases hk : k < 8
  · by_cases h : k = f
    · subst h; cases v <;> simp [hk]
    · have : ¬ (k ≥ f ∧ (1#8).getLsbD (k - f) = true) := by
        rintro ⟨h1, h2⟩
        have h3 : (1#8).getLsbD (k - f) = decide (k - f = 0) := by
          simp [BitVec.getLsbD_one]
        rw [h3] at h2; simp at h2; omega
      cases v <;> (simp_all; try omega)
  · have : ∀ q : Byte, q.getLsbD k = false := fun q => BitVec.getLsbD_of_ge q k (by omega)
    simp [hk, this]

@[simp] theorem getFlag_putFlag_same {f : Nat} (h : f < 8) (v : Bool) (p : Byte) : getFlag f (putFlag f v p) = v := by
  rw [getFlag, getLsbD_putFlag, if_pos ⟨rfl, h⟩]

@[simp] theorem getFlag_putFlag_other {f k : Nat} (h : k ≠ f) (v : Bool) (p : Byte) :
    getFlag k (putFlag f v p) = getFlag k p := by
  rw [getFlag, getLsbD_putFlag, if_neg (fun e => h e.1), getFlag]

/-- Two bytes with the same eight flags are equal. -/
theorem byte_eq_of_flags {p q : Byte} (h : ∀ f < 8, getFlag f p = getFlag f q) : p = q :=
  BitVec.eq_of_getLsbD_eq fun f hf => h f hf

@[simp] theorem getFlag_putNZ_N (v p : Byte) : getFlag 7 (putNZ v p) = v.getLsbD 7 := by simp [putNZ]
@[simp] theorem getFlag_putNZ_Z (v p : Byte) : getFlag 1 (putNZ v p) = (v == 0) := by simp [putNZ]
@[simp] theorem getFlag_putNZ_other {k : Nat} (h7 : k ≠ 7) (h1 : k ≠ 1) (v p : Byte) :
    getFlag k (putNZ v p) = getFlag k p := by simp [putNZ, h7, h1]

/-- `SetP(v)` bit by bit (R27). -/
theorem getFlag_loadedP (f : Nat) (v p : Byte) :
    getFlag f (loadedP v p) = if f = 5 then true else if f = 4 then getFlag 4 p else getFlag f v := by
  rcases Nat.lt_or_ge f 8 with h | h
  · rw [getFlag, loadedP, BitVec.getLsbD_or, BitVec.getLsbD_or, BitVec.getLsbD_and, BitVec.getLsbD_and]
    have : f = 0 ∨ f = 1 ∨ f = 2 ∨ f = 3 ∨ f = 4 ∨ f = 5 ∨ f = 6 ∨ f = 7 := by omega
    rcases this with rfl | rfl | rfl | rfl | rfl | rfl | rfl | rfl <;> simp [getFlag]
  · have : ∀ q : Byte, q.getLsbD f = false := fun q => BitVec.getLsbD_of_ge q f h
    simp [getFlag, this, show f ≠ 5 by omega, show f ≠ 4 by omega]

/-- The pushed copy of P bit by bit (R28). -/
theorem getFlag_pushedP (f : Nat) (software : Bool) (p : Byte) :
    getFlag f (pushedP software p) = if f = 5 then true else if f = 4 then software else getFlag f p := by
  rcases Nat.lt_or_ge f 8 with h | h
  · have : f = 0 ∨ f = 1 ∨ f = 2 ∨ f = 3 ∨ f = 4 ∨ f = 5 ∨ f = 6 ∨ f = 7 := by omega
    cases software
    · simp only [getFlag, pushedP, Bool.false_eq_true, if_false, BitVec.getLsbD_or, BitVec.getLsbD_and]
      rcases this with rfl | rfl | rfl | rfl | rfl | rfl | rfl | rfl <;> simp
    · simp only [getFlag, pushedP, if_true, BitVec.getLsbD_or]
      rcases this with rfl | rfl | rfl | rfl | rfl | rfl | rfl | rfl <;> simp
  · have : ∀ q : Byte, q.getLsbD f = false := fun q => BitVec.getLsbD_of_ge q f h
    simp [getFlag, this, show f ≠ 5 by omega, show f ≠ 4 by omega]

/-- The carry of a compare does not depend on P. -/
@[simp] theorem getFlag_comparedP_C (reg m p : Byte) : getFlag 0 (comparedP reg m p) = decide (m.toNat ≤ reg.toNat) := by
  simp [comparedP]

end Sys2Proof.Machine
end

