-- ==== Sys2Proof/Laws/State.lean ====
section
/-! SUPPORT. One lemma for each field of State and each update of a register, all true by definition; with them no later
proof unfolds an update. -/

namespace Sys2Proof.Machine

@[simp] theorem State.setA_regs (s : State) (v : Byte) : (s.setA v).regs = { s.regs with a := v } := rfl
@[simp] theorem State.setA_bus (s : State) (v : Byte) : (s.setA v).bus = s.bus := rfl
@[simp] theorem State.setA_inputs (s : State) (v : Byte) : (s.setA v).inputs = s.inputs := rfl
@[simp] theorem State.setA_cfg (s : State) (v : Byte) : (s.setA v).cfg = s.cfg := rfl
@[simp] theorem State.setA_ticks (s : State) (v : Byte) : (s.setA v).ticks = s.ticks := rfl

@[simp] theorem State.setX_regs (s : State) (v : Byte) : (s.setX v).regs = { s.regs with x := v } := rfl
@[simp] theorem State.setX_bus (s : State) (v : Byte) : (s.setX v).bus = s.bus := rfl
@[simp] theorem State.setX_inputs (s : State) (v : Byte) : (s.setX v).inputs = s.inputs := rfl
@[simp] theorem State.setX_cfg (s : State) (v : Byte) : (s.setX v).cfg = s.cfg := rfl
@[simp] theorem State.setX_ticks (s : State) (v : Byte) : (s.setX v).ticks = s.ticks := rfl

@[simp] theorem State.setY_regs (s : State) (v : Byte) : (s.setY v).regs = { s.regs with y := v } := rfl
@[simp] theorem State.setY_bus (s : State) (v : Byte) : (s.setY v).bus = s.bus := rfl
@[simp] theorem State.setY_inputs (s : State) (v : Byte) : (s.setY v).inputs = s.inputs := rfl
@[simp] theorem State.setY_cfg (s : State) (v : Byte) : (s.setY v).cfg = s.cfg := rfl
@[simp] theorem State.setY_ticks (s : State) (v : Byte) : (s.setY v).ticks = s.ticks := rfl

@[simp] theorem State.setSP_regs (s : State) (v : Byte) : (s.setSP v).regs = { s.regs with sp := v } := rfl
@[simp] theorem State.setSP_bus (s : State) (v : Byte) : (s.setSP v).bus = s.bus := rfl
@[simp] theorem State.setSP_inputs (s : State) (v : Byte) : (s.setSP v).inputs = s.inputs := rfl
@[simp] theorem State.setSP_cfg (s : State) (v : Byte) : (s.setSP v).cfg = s.cfg := rfl
@[simp] theorem State.setSP_ticks (s : State) (v : Byte) : (s.setSP v).ticks = s.ticks := rfl

@[simp] theorem State.setPC_regs (s : State) (v : Word) : (s.setPC v).regs = { s.regs with pc := v } := rfl
@[simp] theorem State.setPC_bus (s : State) (v : Word) : (s.setPC v).bus = s.bus := rfl
@[simp] theorem State.setPC_inputs (s : State) (v : Word) : (s.setPC v).inputs = s.inputs := rfl
@[simp] theorem State.setPC_cfg (s : State) (v : Word) : (s.setPC v).cfg = s.cfg := rfl
@[simp] theorem State.setPC_ticks (s : State) (v : Word) : (s.setPC v).ticks = s.ticks := rfl

@[simp] theorem State.setP_regs (s : State) (v : Byte) : (s.setP v).regs = { s.regs with p := v } := rfl
@[simp] theorem State.setP_bus (s : State) (v : Byte) : (s.setP v).bus = s.bus := rfl
@[simp] theorem State.setP_inputs (s : State) (v : Byte) : (s.setP v).inputs = s.inputs := rfl
@[simp] theorem State.setP_cfg (s : State) (v : Byte) : (s.setP v).cfg = s.cfg := rfl
@[simp] theorem State.setP_ticks (s : State) (v : Byte) : (s.setP v).ticks = s.ticks := rfl

@[simp] theorem State.setIR_regs (s : State) (v : Byte) : (s.setIR v).regs = { s.regs with ir := v } := rfl
@[simp] theorem State.setIR_bus (s : State) (v : Byte) : (s.setIR v).bus = s.bus := rfl
@[simp] theorem State.setIR_inputs (s : State) (v : Byte) : (s.setIR v).inputs = s.inputs := rfl
@[simp] theorem State.setIR_cfg (s : State) (v : Byte) : (s.setIR v).cfg = s.cfg := rfl
@[simp] theorem State.setIR_ticks (s : State) (v : Byte) : (s.setIR v).ticks = s.ticks := rfl

@[simp] theorem State.setHalt_regs (s : State) (v : Bool) : (s.setHalt v).regs = { s.regs with halt := v } := rfl
@[simp] theorem State.setHalt_bus (s : State) (v : Bool) : (s.setHalt v).bus = s.bus := rfl
@[simp] theorem State.setHalt_inputs (s : State) (v : Bool) : (s.setHalt v).inputs = s.inputs := rfl
@[simp] theorem State.setHalt_cfg (s : State) (v : Bool) : (s.setHalt v).cfg = s.cfg := rfl
@[simp] theorem State.setHalt_ticks (s : State) (v : Bool) : (s.setHalt v).ticks = s.ticks := rfl

@[simp] theorem State.setNmiState_regs (s : State) (v : NmiState) : (s.setNmiState v).regs = { s.regs with nmiState := v } := rfl
@[simp] theorem State.setNmiState_bus (s : State) (v : NmiState) : (s.setNmiState v).bus = s.bus := rfl
@[simp] theorem State.setNmiState_inputs (s : State) (v : NmiState) : (s.setNmiState v).inputs = s.inputs := rfl
@[simp] theorem State.setNmiState_cfg (s : State) (v : NmiState) : (s.setNmiState v).cfg = s.cfg := rfl
@[simp] theorem State.setNmiState_ticks (s : State) (v : NmiState) : (s.setNmiState v).ticks = s.ticks := rfl

@[simp] theorem State.setNmiPrev_regs (s : State) (v : Bool) : (s.setNmiPrev v).regs = { s.regs with nmiPrev := v } := rfl
@[simp] theorem State.setNmiPrev_bus (s : State) (v : Bool) : (s.setNmiPrev v).bus = s.bus := rfl
@[simp] theorem State.setNmiPrev_inputs (s : State) (v : Bool) : (s.setNmiPrev v).inputs = s.inputs := rfl
@[simp] theorem State.setNmiPrev_cfg (s : State) (v : Bool) : (s.setNmiPrev v).cfg = s.cfg := rfl
@[simp] theorem State.setNmiPrev_ticks (s : State) (v : Bool) : (s.setNmiPrev v).ticks = s.ticks := rfl

@[simp] theorem State.setCrossed_regs (s : State) (v : Bool) : (s.setCrossed v).regs = { s.regs with crossed := v } := rfl
@[simp] theorem State.setCrossed_bus (s : State) (v : Bool) : (s.setCrossed v).bus = s.bus := rfl
@[simp] theorem State.setCrossed_inputs (s : State) (v : Bool) : (s.setCrossed v).inputs = s.inputs := rfl
@[simp] theorem State.setCrossed_cfg (s : State) (v : Bool) : (s.setCrossed v).cfg = s.cfg := rfl
@[simp] theorem State.setCrossed_ticks (s : State) (v : Bool) : (s.setCrossed v).ticks = s.ticks := rfl

@[simp] theorem State.addCycles_regs (s : State) (v : Nat) : (s.addCycles v).regs = { s.regs with cyc := s.regs.cyc + BitVec.ofNat 64 v } := rfl
@[simp] theorem State.addCycles_bus (s : State) (v : Nat) : (s.addCycles v).bus = s.bus := rfl
@[simp] theorem State.addCycles_inputs (s : State) (v : Nat) : (s.addCycles v).inputs = s.inputs := rfl
@[simp] theorem State.addCycles_cfg (s : State) (v : Nat) : (s.addCycles v).cfg = s.cfg := rfl
@[simp] theorem State.addCycles_ticks (s : State) (v : Nat) : (s.addCycles v).ticks = s.ticks := rfl

@[simp] theorem State.setNZ_regs (s : State) (v : Byte) : (s.setNZ v).regs = { s.regs with p := putNZ v s.regs.p } := rfl
@[simp] theorem State.setNZ_bus (s : State) (v : Byte) : (s.setNZ v).bus = s.bus := rfl
@[simp] theorem State.setNZ_inputs (s : State) (v : Byte) : (s.setNZ v).inputs = s.inputs := rfl
@[simp] theorem State.setNZ_cfg (s : State) (v : Byte) : (s.setNZ v).cfg = s.cfg := rfl
@[simp] theorem State.setNZ_ticks (s : State) (v : Byte) : (s.setNZ v).ticks = s.ticks := rfl

@[simp] theorem State.setFlag_regs (s : State) (f : Nat) (v : Bool) :
    (s.setFlag f v).regs = { s.regs with p := putFlag f v s.regs.p } := rfl
@[simp] theorem State.setFlag_bus (s : State) (f : Nat) (v : Bool) : (s.setFlag f v).bus = s.bus := rfl
@[simp] theorem State.setFlag_inputs (s : State) (f : Nat) (v : Bool) : (s.setFlag f v).inputs = s.inputs := rfl
@[simp] theorem State.setFlag_cfg (s : State) (f : Nat) (v : Bool) : (s.setFlag f v).cfg = s.cfg := rfl
@[simp] theorem State.setFlag_ticks (s : State) (f : Nat) (v : Bool) : (s.setFlag f v).ticks = s.ticks := rfl

@[simp] theorem State.memRead_fst (s : State) (a : Word) : (s.memRead a).1 = s.bus.value a := rfl
@[simp] theorem State.memRead_bus (s : State) (a : Word) : (s.memRead a).2.bus = s.bus.afterRead a := rfl
@[simp] theorem State.memRead_regs (s : State) (a : Word) : (s.memRead a).2.regs = s.regs := rfl
@[simp] theorem State.memRead_inputs (s : State) (a : Word) : (s.memRead a).2.inputs = s.inputs := rfl
@[simp] theorem State.memRead_cfg (s : State) (a : Word) : (s.memRead a).2.cfg = s.cfg := rfl
@[simp] theorem State.memRead_ticks (s : State) (a : Word) : (s.memRead a).2.ticks = s.ticks := rfl

@[simp] theorem State.memWrite_bus (s : State) (a : Word) (v : Byte) : (s.memWrite a v).bus = s.bus.afterWrite a v := rfl
@[simp] theorem State.memWrite_regs (s : State) (a : Word) (v : Byte) : (s.memWrite a v).regs = s.regs := rfl
@[simp] theorem State.memWrite_inputs (s : State) (a : Word) (v : Byte) : (s.memWrite a v).inputs = s.inputs := rfl
@[simp] theorem State.memWrite_cfg (s : State) (a : Word) (v : Byte) : (s.memWrite a v).cfg = s.cfg := rfl
@[simp] theorem State.memWrite_ticks (s : State) (a : Word) (v : Byte) : (s.memWrite a v).ticks = s.ticks := rfl

@[simp] theorem State.fetch_fst (s : State) : s.fetch.1 = s.bus.value s.regs.pc := rfl
@[simp] theorem State.fetch_regs (s : State) :
    s.fetch.2.regs = { s.regs with pc := s.regs.pc + 1 } := rfl
@[simp] theorem State.fetch_bus (s : State) :
    s.fetch.2.bus = s.bus.afterRead s.regs.pc := rfl
@[simp] theorem State.fetch_inputs (s : State) : s.fetch.2.inputs = s.inputs := rfl
@[simp] theorem State.fetch_cfg (s : State) : s.fetch.2.cfg = s.cfg := rfl
@[simp] theorem State.fetch_ticks (s : State) : s.fetch.2.ticks = s.ticks := rfl

@[simp] theorem State.push_regs (s : State) (v : Byte) :
    (s.push v).regs = { s.regs with sp := s.regs.sp - 1 } := rfl
@[simp] theorem State.push_bus (s : State) (v : Byte) :
    (s.push v).bus = s.bus.afterWrite (stackAddress s.regs.sp) v := rfl
@[simp] theorem State.push_inputs (s : State) (v : Byte) : (s.push v).inputs = s.inputs := rfl
@[simp] theorem State.push_cfg (s : State) (v : Byte) : (s.push v).cfg = s.cfg := rfl
@[simp] theorem State.push_ticks (s : State) (v : Byte) : (s.push v).ticks = s.ticks := rfl

@[simp] theorem State.pull_fst (s : State) : s.pull.1 = s.bus.value (stackAddress (s.regs.sp + 1)) := rfl
@[simp] theorem State.pull_regs (s : State) :
    s.pull.2.regs = { s.regs with sp := s.regs.sp + 1 } := rfl
@[simp] theorem State.pull_bus (s : State) :
    s.pull.2.bus = s.bus.afterRead (stackAddress (s.regs.sp + 1)) := rfl
@[simp] theorem State.pull_inputs (s : State) : s.pull.2.inputs = s.inputs := rfl
@[simp] theorem State.pull_cfg (s : State) : s.pull.2.cfg = s.cfg := rfl
@[simp] theorem State.pull_ticks (s : State) : s.pull.2.ticks = s.ticks := rfl

@[simp] theorem State.pushWord_regs (s : State) (w : Word) :
    (s.pushWord w).regs = { s.regs with sp := s.regs.sp - 1 - 1 } := rfl
@[simp] theorem State.pushWord_bus (s : State) (w : Word) :
    (s.pushWord w).bus = (s.bus.afterWrite (stackAddress s.regs.sp) (hiByte w)).afterWrite (stackAddress (s.regs.sp - 1)) (loByte w) := rfl
@[simp] theorem State.pushWord_inputs (s : State) (w : Word) : (s.pushWord w).inputs = s.inputs := rfl
@[simp] theorem State.pushWord_cfg (s : State) (w : Word) : (s.pushWord w).cfg = s.cfg := rfl
@[simp] theorem State.pushWord_ticks (s : State) (w : Word) : (s.pushWord w).ticks = s.ticks := rfl

@[simp] theorem State.pullWord_fst (s : State) :
    s.pullWord.1 = wordOf ((s.bus.afterRead (stackAddress (s.regs.sp + 1))).value (stackAddress (s.regs.sp + 1 + 1)))
      (s.bus.value (stackAddress (s.regs.sp + 1))) := rfl
@[simp] theorem State.pullWord_regs (s : State) :
    s.pullWord.2.regs = { s.regs with sp := s.regs.sp + 1 + 1 } := rfl
@[simp] theorem State.pullWord_bus (s : State) :
    s.pullWord.2.bus = (s.bus.afterRead (stackAddress (s.regs.sp + 1))).afterRead (stackAddress (s.regs.sp + 1 + 1)) := rfl
@[simp] theorem State.pullWord_inputs (s : State) : s.pullWord.2.inputs = s.inputs := rfl
@[simp] theorem State.pullWord_cfg (s : State) : s.pullWord.2.cfg = s.cfg := rfl
@[simp] theorem State.pullWord_ticks (s : State) : s.pullWord.2.ticks = s.ticks := rfl

@[simp] theorem State.readWord_fst (s : State) (a : Word) :
    (s.readWord a).1 = wordOf ((s.bus.afterRead a).value (a + 1)) (s.bus.value a) := rfl
@[simp] theorem State.readWord_regs (s : State) (a : Word) :
    (s.readWord a).2.regs = s.regs := rfl
@[simp] theorem State.readWord_bus (s : State) (a : Word) :
    (s.readWord a).2.bus = (s.bus.afterRead a).afterRead (a + 1) := rfl
@[simp] theorem State.readWord_inputs (s : State) (a : Word) : (s.readWord a).2.inputs = s.inputs := rfl
@[simp] theorem State.readWord_cfg (s : State) (a : Word) : (s.readWord a).2.cfg = s.cfg := rfl
@[simp] theorem State.readWord_ticks (s : State) (a : Word) : (s.readWord a).2.ticks = s.ticks := rfl

@[simp] theorem State.zeroPagePointer_fst (s : State) (b : Byte) :
    (s.zeroPagePointer b).1 =
      wordOf ((s.bus.afterRead (wordOf 0x00 b)).value (wordOf 0x00 (b + 1))) (s.bus.value (wordOf 0x00 b)) := rfl
@[simp] theorem State.zeroPagePointer_regs (s : State) (b : Byte) :
    (s.zeroPagePointer b).2.regs = s.regs := rfl
@[simp] theorem State.zeroPagePointer_bus (s : State) (b : Byte) :
    (s.zeroPagePointer b).2.bus = (s.bus.afterRead (wordOf 0x00 b)).afterRead (wordOf 0x00 (b + 1)) := rfl
@[simp] theorem State.zeroPagePointer_inputs (s : State) (b : Byte) : (s.zeroPagePointer b).2.inputs = s.inputs := rfl
@[simp] theorem State.zeroPagePointer_cfg (s : State) (b : Byte) : (s.zeroPagePointer b).2.cfg = s.cfg := rfl
@[simp] theorem State.zeroPagePointer_ticks (s : State) (b : Byte) : (s.zeroPagePointer b).2.ticks = s.ticks := rfl



end Sys2Proof.Machine
end

