-- ==== Sys2Proof/Laws/Memory.lean ====
section
/-! SUPPORT. Memory: the canonical form is kept by every operation, a read after a write, and what a bus access leaves. -/

namespace Sys2Proof.Machine

/-! ### The list of cells -/

theorem Memory.wfFrom_mono {lo lo' : Nat} (h : lo' ≤ lo) :
    ∀ {m : Memory}, Memory.wfFrom lo m = true → Memory.wfFrom lo' m = true
  | [], _ => rfl
  | (k, v) :: rest, hm => by
    simp only [Memory.wfFrom, Bool.and_eq_true, decide_eq_true_eq] at hm ⊢
    exact ⟨⟨⟨by omega, hm.1.1.2⟩, hm.1.2⟩, hm.2⟩

/-- Below its first address a canonical memory reads as unlisted. -/
theorem Memory.read_below {lo a : Nat} (h : a < lo) :
    ∀ {m : Memory}, Memory.wfFrom lo m = true → m.read a = unlistedByte
  | [], _ => rfl
  | (k, v) :: rest, hm => by
    simp only [Memory.wfFrom, Bool.and_eq_true, decide_eq_true_eq] at hm
    rw [Memory.read, if_neg (by omega)]
    exact Memory.read_below (by omega) hm.2

theorem Memory.wfFrom_write {a : Nat} (ha : a < 65536) (v : Byte) :
    ∀ {lo : Nat} {m : Memory}, lo ≤ a → Memory.wfFrom lo m = true → Memory.wfFrom lo (m.write a v) = true
  | lo, [], hlo, _ => by
    rw [Memory.write]; split
    · rfl
    · simp_all [Memory.wfFrom]
  | lo, (k, w) :: rest, hlo, hm => by
    have hm' := hm
    simp only [Memory.wfFrom, Bool.and_eq_true, decide_eq_true_eq] at hm
    rw [Memory.write]
    split
    · split
      · exact hm'
      · rename_i hlt hv
        simp only [Memory.wfFrom, Bool.and_eq_true, decide_eq_true_eq, bne_iff_ne, ne_eq]
        exact ⟨⟨⟨hlo, ha⟩, hv⟩, ⟨⟨⟨by omega, hm.1.1.2⟩, by simpa using hm.1.2⟩, hm.2⟩⟩
    · split
      · split
        · exact Memory.wfFrom_mono (by omega) hm.2
        · rename_i hlt heq hv
          simp only [Memory.wfFrom, Bool.and_eq_true, decide_eq_true_eq, bne_iff_ne, ne_eq]
          exact ⟨⟨⟨hlo, ha⟩, hv⟩, by subst heq; exact hm.2⟩
      · simp only [Memory.wfFrom, Bool.and_eq_true, decide_eq_true_eq]
        exact ⟨⟨⟨hm.1.1.1, hm.1.1.2⟩, hm.1.2⟩, Memory.wfFrom_write ha v (by omega) hm.2⟩

/-- Every write keeps the canonical form. -/
theorem Memory.write_wf {m : Memory} (h : m.wf = true) {a : Nat} (ha : a < 65536) (v : Byte) :
    (m.write a v).wf = true :=
  Memory.wfFrom_write ha v (Nat.zero_le a) h

/-- A write leaves every other address alone, in any memory. -/
theorem Memory.read_write_other {a b : Nat} (h : b ≠ a) (v : Byte) :
    ∀ m : Memory, (m.write a v).read b = m.read b
  | [] => by
    rw [Memory.write]; split
    · rfl
    · simp [Memory.read, h]
  | (k, w) :: rest => by
    have ih := Memory.read_write_other h v rest
    rw [Memory.write]
    split
    · split <;> simp [Memory.read, h]
    · split
      · rename_i _ heq
        subst heq
        split <;> simp [Memory.read, h]
      · simp only [Memory.read, ih]

theorem Memory.wfFrom_read_write_same {a : Nat} (v : Byte) :
    ∀ {lo : Nat} {m : Memory}, Memory.wfFrom lo m = true → (m.write a v).read a = v
  | lo, [], _ => by
    rw [Memory.write]; split
    · rename_i h; exact h.symm
    · simp [Memory.read]
  | lo, (k, w) :: rest, hm => by
    simp only [Memory.wfFrom, Bool.and_eq_true, decide_eq_true_eq] at hm
    rw [Memory.write]
    split
    · split
      · rename_i hlt hv
        rw [Memory.read, if_neg (by omega), Memory.read_below (by omega) hm.2, hv]
      · simp [Memory.read]
    · split
      · split
        · rename_i hlt heq hv
          rw [Memory.read_below (by omega) hm.2, hv]
        · simp [Memory.read]
      · rename_i hlt hne
        rw [Memory.read, if_neg hne]
        exact Memory.wfFrom_read_write_same v hm.2

/-- A canonical memory reads the byte last written. -/
theorem Memory.read_write_same {m : Memory} (h : m.wf = true) (a : Nat) (v : Byte) : (m.write a v).read a = v :=
  Memory.wfFrom_read_write_same v h

/-! ### The bus -/

@[simp] theorem Bus.afterRead_mem (b : Bus) (a : Word) : (b.afterRead a).mem = b.mem := by
  unfold Bus.afterRead; split
  · split <;> rfl
  · rfl

@[simp] theorem Bus.afterRead_regions (b : Bus) (a : Word) : (b.afterRead a).regions = b.regions := by
  unfold Bus.afterRead; split
  · split <;> rfl
  · rfl

@[simp] theorem Bus.afterRead_events (b : Bus) (a : Word) :
    (b.afterRead a).events = .read a (b.value a) :: b.events := by
  unfold Bus.afterRead; split
  · split <;> rfl
  · rfl

@[simp] theorem Bus.afterRead_kindAt (b : Bus) (a c : Word) : (b.afterRead a).kindAt c = b.kindAt c := by
  simp [Bus.kindAt]

@[simp] theorem Bus.afterWrite_regions (b : Bus) (a : Word) (v : Byte) : (b.afterWrite a v).regions = b.regions := by
  unfold Bus.afterWrite; split <;> rfl

@[simp] theorem Bus.afterWrite_events (b : Bus) (a : Word) (v : Byte) :
    (b.afterWrite a v).events = .write a v :: b.events := by
  unfold Bus.afterWrite; split <;> rfl

@[simp] theorem Bus.afterWrite_kindAt (b : Bus) (a c : Word) (v : Byte) : (b.afterWrite a v).kindAt c = b.kindAt c := by
  simp [Bus.kindAt]

@[simp] theorem Bus.afterWrite_answers (b : Bus) (a : Word) (v : Byte) : (b.afterWrite a v).answers = b.answers := by
  unfold Bus.afterWrite; split <;> rfl

@[simp] theorem Bus.afterWrite_freeReads (b : Bus) (a : Word) (v : Byte) :
    (b.afterWrite a v).freeReads = b.freeReads := by
  unfold Bus.afterWrite; split <;> rfl

/-- A write to plain memory. -/
theorem Bus.afterWrite_mem_plain {b : Bus} {a : Word} (h : b.kindAt a = none) (v : Byte) :
    (b.afterWrite a v).mem = b.mem.write a.toNat v := by
  simp [Bus.afterWrite, h]

/-- A write to read-only memory or to an external address leaves memory as it was (R60, R66). -/
theorem Bus.afterWrite_mem_region {b : Bus} {a : Word} (h : b.kindAt a ≠ none) (v : Byte) :
    (b.afterWrite a v).mem = b.mem := by
  unfold Bus.afterWrite; split
  · contradiction
  · rfl

/-- An address that no device answers for reads as what memory holds. -/
theorem Bus.value_of_not_external {b : Bus} {a : Word} (h : b.kindAt a ≠ some .external) :
    b.value a = b.mem.read a.toNat := by
  unfold Bus.value; split
  · contradiction
  · rfl

theorem Bus.afterRead_of_not_external {b : Bus} {a : Word} (h : b.kindAt a ≠ some .external) :
    b.afterRead a = { b with events := .read a (b.value a) :: b.events } := by
  unfold Bus.afterRead; split
  · contradiction
  · rfl

/-- A bus write keeps the canonical form of memory. -/
theorem Bus.afterWrite_wf {b : Bus} (h : b.mem.wf = true) (a : Word) (v : Byte) : (b.afterWrite a v).mem.wf = true := by
  unfold Bus.afterWrite; split
  · exact Memory.write_wf h a.isLt v
  · exact h

/-- A bus write leaves every other address of memory alone. -/
theorem Bus.afterWrite_read_other (b : Bus) {a c : Word} (h : c ≠ a) (v : Byte) :
    (b.afterWrite a v).mem.read c.toNat = b.mem.read c.toNat := by
  unfold Bus.afterWrite; split
  · exact Memory.read_write_other (fun e => h (BitVec.eq_of_toNat_eq e)) v _
  · rfl

/-- A bus write to plain, canonical memory is read back. -/
theorem Bus.afterWrite_read_same {b : Bus} {a : Word} (hk : b.kindAt a = none) (h : b.mem.wf = true) (v : Byte) :
    (b.afterWrite a v).mem.read a.toNat = v := by
  rw [Bus.afterWrite_mem_plain hk, Memory.read_write_same h]

end Sys2Proof.Machine
end

