-- ==== Sys2Proof/Laws/Operands.lean ====
section
/-! SUPPORT. What evaluating, reading and writing an operand can do: no register but CROSSED changes in an evaluation, and
memory changes nowhere but at the effective address of a write. -/

namespace Sys2Proof.Machine

/-! ### The evaluator (R100) -/

/-- "No evaluator writes a register other than PC": here the operand bytes are fetched, so none but CROSSED changes. -/
theorem State.evaluate_regs (s : State) (o : Operand) :
    (s.evaluate o).2.regs = { s.regs with crossed := (s.evaluate o).2.regs.crossed } := by
  cases o <;> rfl

@[simp] theorem State.evaluate_inputs (s : State) (o : Operand) : (s.evaluate o).2.inputs = s.inputs := by
  cases o <;> rfl

@[simp] theorem State.evaluate_cfg (s : State) (o : Operand) : (s.evaluate o).2.cfg = s.cfg := by cases o <;> rfl

@[simp] theorem State.evaluate_ticks (s : State) (o : Operand) : (s.evaluate o).2.ticks = s.ticks := by cases o <;> rfl

@[simp] theorem State.evaluate_mem (s : State) (o : Operand) : (s.evaluate o).2.bus.mem = s.bus.mem := by
  cases o <;> simp [State.evaluate]

@[simp] theorem State.evaluate_regions (s : State) (o : Operand) : (s.evaluate o).2.bus.regions = s.bus.regions := by
  cases o <;> simp [State.evaluate]

@[simp] theorem State.evaluate_kindAt (s : State) (o : Operand) (a : Word) :
    (s.evaluate o).2.bus.kindAt a = s.bus.kindAt a := by
  simp [Bus.kindAt]

section
variable (s : State) (o : Operand)

@[simp] theorem State.evaluate_a : (s.evaluate o).2.regs.a = s.regs.a := by rw [State.evaluate_regs]
@[simp] theorem State.evaluate_x : (s.evaluate o).2.regs.x = s.regs.x := by rw [State.evaluate_regs]
@[simp] theorem State.evaluate_y : (s.evaluate o).2.regs.y = s.regs.y := by rw [State.evaluate_regs]
@[simp] theorem State.evaluate_sp : (s.evaluate o).2.regs.sp = s.regs.sp := by rw [State.evaluate_regs]
@[simp] theorem State.evaluate_pc : (s.evaluate o).2.regs.pc = s.regs.pc := by rw [State.evaluate_regs]
@[simp] theorem State.evaluate_p : (s.evaluate o).2.regs.p = s.regs.p := by rw [State.evaluate_regs]
@[simp] theorem State.evaluate_ir : (s.evaluate o).2.regs.ir = s.regs.ir := by rw [State.evaluate_regs]
@[simp] theorem State.evaluate_cyc : (s.evaluate o).2.regs.cyc = s.regs.cyc := by rw [State.evaluate_regs]
@[simp] theorem State.evaluate_halt : (s.evaluate o).2.regs.halt = s.regs.halt := by rw [State.evaluate_regs]
@[simp] theorem State.evaluate_nmiState : (s.evaluate o).2.regs.nmiState = s.regs.nmiState := by
  rw [State.evaluate_regs]
@[simp] theorem State.evaluate_nmiPrev : (s.evaluate o).2.regs.nmiPrev = s.regs.nmiPrev := by rw [State.evaluate_regs]

end

/-! ### Reading the operand -/

@[simp] theorem State.operandRead_regs (s : State) (o : Operand) :
    (s.operandRead o).2.regs = (s.evaluate o).2.regs := by
  cases o <;> rfl

@[simp] theorem State.operandRead_inputs (s : State) (o : Operand) : (s.operandRead o).2.inputs = s.inputs := by
  cases o <;> rfl

@[simp] theorem State.operandRead_cfg (s : State) (o : Operand) : (s.operandRead o).2.cfg = s.cfg := by cases o <;> rfl

@[simp] theorem State.operandRead_ticks (s : State) (o : Operand) : (s.operandRead o).2.ticks = s.ticks := by
  cases o <;> rfl

@[simp] theorem State.operandRead_mem (s : State) (o : Operand) : (s.operandRead o).2.bus.mem = s.bus.mem := by
  cases o <;> simp [State.operandRead, State.evaluate]

@[simp] theorem State.operandRead_regions (s : State) (o : Operand) :
    (s.operandRead o).2.bus.regions = s.bus.regions := by
  cases o <;> simp [State.operandRead, State.evaluate]

/-! ### Writing it -/

@[simp] theorem State.operandWrite_regs (s : State) (o : Operand) (v : Byte) :
    (s.operandWrite o v).regs = (s.evaluate o).2.regs := rfl

@[simp] theorem State.operandWrite_inputs (s : State) (o : Operand) (v : Byte) :
    (s.operandWrite o v).inputs = s.inputs := by simp [State.operandWrite]

@[simp] theorem State.operandWrite_cfg (s : State) (o : Operand) (v : Byte) : (s.operandWrite o v).cfg = s.cfg := by
  simp [State.operandWrite]

@[simp] theorem State.operandWrite_ticks (s : State) (o : Operand) (v : Byte) :
    (s.operandWrite o v).ticks = s.ticks := by simp [State.operandWrite]

@[simp] theorem State.operandWrite_bus (s : State) (o : Operand) (v : Byte) :
    (s.operandWrite o v).bus = (s.evaluate o).2.bus.afterWrite (s.evaluate o).1 v := rfl

/-- In a memory mode a shift is one read and one write at the effective address (R159). -/
theorem State.shift_memory (f : Byte → Bool → Byte × Bool) (s : State) {o : Operand} (h : o ≠ .acc) :
    State.shift f s o =
      let e := s.evaluate o
      let r := f (e.2.bus.value e.1) (s.flag flagC)
      ((e.2.memRead e.1).2.setP (shiftedP r s.regs.p)).memWrite e.1 r.1 := by
  cases o <;> first | contradiction | rfl

/-- In mode ACC a shift acts on A and makes no bus event (R159). -/
theorem State.shift_acc (f : Byte → Bool → Byte × Bool) (s : State) :
    State.shift f s .acc =
      let r := f s.regs.a (s.flag flagC)
      ((s.setCrossed false).setP (shiftedP r s.regs.p)).setA r.1 := rfl

end Sys2Proof.Machine
end

