-- ==== Sys2Proof/Laws/Kept.lean ====
section
/-! SUPPORT. What no instruction and no interrupt service can touch, said once: the inputs, the parameters, the regions of the
platform and the ticks; and what every one of them keeps: memory's canonical form and the constant and break bits of P. -/

namespace Sys2Proof.Machine

/-- From `s` to `t` nothing is touched that only the environment or the step's own accounting may touch. -/
structure Kept (s t : State) : Prop where
  inputs : t.inputs = s.inputs
  cfg : t.cfg = s.cfg
  ticks : t.ticks = s.ticks
  regions : t.bus.regions = s.bus.regions
  wf : s.bus.mem.wf = true → t.bus.mem.wf = true
  bit5 : getFlag 5 s.regs.p = true → getFlag 5 t.regs.p = true
  bit4 : getFlag 4 t.regs.p = getFlag 4 s.regs.p

namespace Kept

theorem refl (s : State) : Kept s s := ⟨rfl, rfl, rfl, rfl, id, id, rfl⟩

theorem trans {s t u : State} (h : Kept s t) (k : Kept t u) : Kept s u where
  inputs := k.inputs.trans h.inputs
  cfg := k.cfg.trans h.cfg
  ticks := k.ticks.trans h.ticks
  regions := k.regions.trans h.regions
  wf := k.wf ∘ h.wf
  bit5 := k.bit5 ∘ h.bit5
  bit4 := k.bit4.trans h.bit4

/-- A change of registers that leaves P. -/
theorem of_regs {s t : State} (hb : t.bus = s.bus) (hi : t.inputs = s.inputs) (hc : t.cfg = s.cfg)
    (ht : t.ticks = s.ticks) (hp : t.regs.p = s.regs.p) : Kept s t :=
  ⟨hi, hc, ht, by rw [hb], by rw [hb]; exact id, by rw [hp]; exact id, by rw [hp]⟩

theorem setA (s : State) (v : Byte) : Kept s (s.setA v) := of_regs rfl rfl rfl rfl rfl
theorem setX (s : State) (v : Byte) : Kept s (s.setX v) := of_regs rfl rfl rfl rfl rfl
theorem setY (s : State) (v : Byte) : Kept s (s.setY v) := of_regs rfl rfl rfl rfl rfl
theorem setSP (s : State) (v : Byte) : Kept s (s.setSP v) := of_regs rfl rfl rfl rfl rfl
theorem setPC (s : State) (v : Word) : Kept s (s.setPC v) := of_regs rfl rfl rfl rfl rfl
theorem setIR (s : State) (v : Byte) : Kept s (s.setIR v) := of_regs rfl rfl rfl rfl rfl
theorem setHalt (s : State) (v : Bool) : Kept s (s.setHalt v) := of_regs rfl rfl rfl rfl rfl
theorem setNmiState (s : State) (v : NmiState) : Kept s (s.setNmiState v) := of_regs rfl rfl rfl rfl rfl
theorem setNmiPrev (s : State) (v : Bool) : Kept s (s.setNmiPrev v) := of_regs rfl rfl rfl rfl rfl
theorem setCrossed (s : State) (v : Bool) : Kept s (s.setCrossed v) := of_regs rfl rfl rfl rfl rfl
theorem addCycles (s : State) (n : Nat) : Kept s (s.addCycles n) := of_regs rfl rfl rfl rfl rfl

/-- A change of P that keeps bits 5 and 4. -/
theorem setP {s : State} {v : Byte} (h5 : getFlag 5 s.regs.p = true → getFlag 5 v = true)
    (h4 : getFlag 4 v = getFlag 4 s.regs.p) : Kept s (s.setP v) :=
  ⟨rfl, rfl, rfl, rfl, id, h5, h4⟩

theorem setFlag (s : State) {f : Nat} (h5 : 5 ≠ f) (h4 : 4 ≠ f) (v : Bool) : Kept s (s.setFlag f v) :=
  setP (by rw [getFlag_putFlag_other h5]; exact id) (getFlag_putFlag_other h4 v _)

theorem setNZ (s : State) (v : Byte) : Kept s (s.setNZ v) :=
  setP (by rw [getFlag_putNZ_other (by decide) (by decide)]; exact id) (getFlag_putNZ_other (by decide) (by decide) v _)

theorem memRead (s : State) (a : Word) : Kept s (s.memRead a).2 :=
  ⟨rfl, rfl, rfl, by simp, by simp, id, rfl⟩

theorem memWrite (s : State) (a : Word) (v : Byte) : Kept s (s.memWrite a v) :=
  ⟨rfl, rfl, rfl, by simp, fun h => Bus.afterWrite_wf h a v, id, rfl⟩

theorem fetch (s : State) : Kept s s.fetch.2 := (memRead s _).trans (setPC _ _)

theorem push (s : State) (v : Byte) : Kept s (s.push v) := (memWrite s _ v).trans (setSP _ _)

theorem pull (s : State) : Kept s s.pull.2 := (setSP s _).trans (memRead _ _)

theorem pushWord (s : State) (w : Word) : Kept s (s.pushWord w) := (push s _).trans (push _ _)

theorem pullWord (s : State) : Kept s s.pullWord.2 := (pull s).trans (pull _)

theorem readWord (s : State) (a : Word) : Kept s (s.readWord a).2 := (memRead s a).trans (memRead _ _)

theorem zeroPagePointer (s : State) (b : Byte) : Kept s (s.zeroPagePointer b).2 := (memRead s _).trans (memRead _ _)

theorem evaluate (s : State) (o : Operand) : Kept s (s.evaluate o).2 :=
  ⟨by simp, by simp, by simp, by simp, by simp, by simp, by simp⟩

theorem operandRead (s : State) (o : Operand) : Kept s (s.operandRead o).2 :=
  ⟨by simp, by simp, by simp, by simp, by simp, by simp, by simp⟩

theorem operandWrite (s : State) (o : Operand) (v : Byte) : Kept s (s.operandWrite o v) :=
  (evaluate s o).trans (memWrite _ _ v)

theorem implied (s : State) : Kept s s.implied := evaluate s .imp

/-- P with the flags of ADC or SBC keeps bits 5 and 4. -/
theorem putNVZC_bits (r : AluResult) (p : Byte) {f : Nat} (h : f = 5 ∨ f = 4) :
    getFlag f (putNVZC r p) = getFlag f p := by
  rcases h with rfl | rfl <;> simp [putNVZC]

theorem shiftedP_bits (r : Byte × Bool) (p : Byte) {f : Nat} (h : f = 5 ∨ f = 4) :
    getFlag f (shiftedP r p) = getFlag f p := by
  rcases h with rfl | rfl <;> simp [shiftedP]

theorem comparedP_bits (r m p : Byte) {f : Nat} (h : f = 5 ∨ f = 4) : getFlag f (comparedP r m p) = getFlag f p := by
  rcases h with rfl | rfl <;> simp [comparedP]

theorem bitTestedP_bits (a m p : Byte) {f : Nat} (h : f = 5 ∨ f = 4) : getFlag f (bitTestedP a m p) = getFlag f p := by
  rcases h with rfl | rfl <;> simp [bitTestedP]

/-- A change of P to a value with the same bits 5 and 4 as the P of an earlier state with the same P. -/
theorem setP' {s t : State} {v : Byte} (hp : t.regs.p = s.regs.p)
    (h : ∀ f, f = 5 ∨ f = 4 → getFlag f v = getFlag f s.regs.p) : Kept t (t.setP v) :=
  setP (by rw [hp, h 5 (.inl rfl)]; exact id) (by rw [hp, h 4 (.inr rfl)])

theorem shift (f : Byte → Bool → Byte × Bool) (s : State) (o : Operand) : Kept s (State.shift f s o) := by
  by_cases h : o = .acc
  · subst h
    exact ((setCrossed s false).trans (setP' (s := s) rfl fun f hf => shiftedP_bits _ _ hf)).trans (setA _ _)
  · rw [State.shift_memory f s h]
    exact (((evaluate s o).trans (memRead _ _)).trans
      (setP' (s := s) (by simp) fun f hf => shiftedP_bits _ _ hf)).trans (memWrite _ _ _)

theorem bump (f : Byte → Byte) (s : State) (o : Operand) : Kept s (State.bump f s o) :=
  (((evaluate s o).trans (memRead _ _)).trans (setNZ _ _)).trans (memWrite _ _ _)

theorem branchIf (s : State) (taken : Bool) (o : Operand) : Kept s (s.branchIf taken o) := by
  unfold State.branchIf
  cases taken
  · exact evaluate s o
  · exact ((evaluate s o).trans (setPC _ _)).trans (addCycles _ _)

theorem enterInterrupt (s : State) (software : Bool) (v : Word) : Kept s (s.enterInterrupt software v) :=
  ((((pushWord s _).trans (push _ _)).trans (setFlag _ (f := flagI) (by decide) (by decide) true)).trans
    (readWord _ _)).trans (setPC _ _)

theorem service (s : State) (v : Word) : Kept s (s.service v) := (enterInterrupt s false v).trans (addCycles _ _)

theorem returnFromInterrupt (s : State) : Kept s s.returnFromInterrupt := by
  have h : Kept s (((s.pull.2.setP (loadedP s.pull.1 s.pull.2.regs.p)).pullWord.2).setPC
      (s.pull.2.setP (loadedP s.pull.1 s.pull.2.regs.p)).pullWord.1) :=
    (((pull s).trans (setP (fun _ => by rw [getFlag_loadedP]; rfl) (by rw [getFlag_loadedP]; rfl))).trans
      (pullWord _)).trans (setPC _ _)
  unfold State.returnFromInterrupt
  dsimp only
  split
  · exact h.trans (setNmiState _ _)
  · exact h

theorem nmiInput (s : State) (level : Bool) : Kept s (s.nmiInput level) := by
  unfold State.nmiInput
  dsimp only
  split
  · exact (setNmiState s _).trans (setNmiPrev _ _)
  · exact setNmiPrev s _

theorem sampleInterrupts (s : State) : Kept s s.sampleInterrupts := by
  unfold State.sampleInterrupts
  dsimp only
  split
  · exact ((nmiInput s _).trans (setNmiState _ _)).trans (service _ _)
  · split
    · exact (nmiInput s _).trans (service _ _)
    · exact nmiInput s _

theorem fetchInstr (s : State) : Kept s s.fetchInstr.2 := by
  unfold State.fetchInstr
  dsimp only
  split
  · exact (fetch s).trans (setIR _ _)
  · exact ((fetch s).trans (setIR _ _)).trans (fetch _)
  · exact (((fetch s).trans (setIR _ _)).trans (fetch _)).trans (fetch _)

theorem accountCycles (s : State) : Kept s s.accountCycles := addCycles s _

/-- No instruction touches what `Kept` keeps. -/
theorem exec {i : Instr} {s t : State} (h : Machine.exec i s = .next t) : Kept s t := by
  cases i <;> simp only [Machine.exec] at h <;> cases h
  case lda | ldx | ldy =>
    first
    | exact ((operandRead s _).trans (setA _ _)).trans (setNZ _ _)
    | exact ((operandRead s _).trans (setX _ _)).trans (setNZ _ _)
    | exact ((operandRead s _).trans (setY _ _)).trans (setNZ _ _)
  case sta | stx | sty => exact operandWrite s _ _
  case tax => exact ((implied s).trans (setX _ _)).trans (setNZ _ _)
  case tay => exact ((implied s).trans (setY _ _)).trans (setNZ _ _)
  case txa => exact ((implied s).trans (setA _ _)).trans (setNZ _ _)
  case tya => exact ((implied s).trans (setA _ _)).trans (setNZ _ _)
  case tsx => exact ((implied s).trans (setX _ _)).trans (setNZ _ _)
  case txs => exact (implied s).trans (setSP _ _)
  case adc | sbc =>
    exact ((operandRead s _).trans (setA _ _)).trans (setP' (s := s) (by simp) fun f hf => putNVZC_bits _ _ hf)
  case and | eor | ora => exact ((operandRead s _).trans (setA _ _)).trans (setNZ _ _)
  case asl | lsr | rol | ror => exact shift _ s _
  case bit => exact (operandRead s _).trans (setP' (s := s) (by simp) fun f hf => bitTestedP_bits _ _ _ hf)
  case cmp | cpx | cpy => exact (operandRead s _).trans (setP' (s := s) (by simp) fun f hf => comparedP_bits _ _ _ hf)
  case inc | dec => exact bump _ s _
  case inx => exact ((implied s).trans (setX _ _)).trans (setNZ _ _)
  case iny => exact ((implied s).trans (setY _ _)).trans (setNZ _ _)
  case dex => exact ((implied s).trans (setX _ _)).trans (setNZ _ _)
  case dey => exact ((implied s).trans (setY _ _)).trans (setNZ _ _)
  case bcc | bcs | beq | bne | bmi | bpl | bvc | bvs => exact branchIf s _ _
  case jmp => exact (evaluate s _).trans (setPC _ _)
  case jsr => exact ((evaluate s _).trans (pushWord _ _)).trans (setPC _ _)
  case rts => exact ((implied s).trans (pullWord _)).trans (setPC _ _)
  case rti => exact (implied s).trans (returnFromInterrupt _)
  case brk => exact ((implied s).trans (setPC _ _)).trans (enterInterrupt _ _ _)
  case clc | sec | cld | sed | cli | sei | clv => exact (implied s).trans (setFlag _ (by decide) (by decide) _)
  case pha | php => exact (implied s).trans (push _ _)
  case pla => exact (((implied s).trans (pull _)).trans (setA _ _)).trans (setNZ _ _)
  case plp =>
    exact ((implied s).trans (pull _)).trans
      (setP (fun _ => by rw [getFlag_loadedP]; rfl) (by rw [getFlag_loadedP]; rfl))
  case nop => exact implied s
  case illegal => exact (implied s).trans (setHalt _ _)

end Kept

end Sys2Proof.Machine
end

