-- ==== Sys2Proof/Laws/Step.lean ====
section
/-! SUPPORT. What a step can do, said once: every instruction answers a next state, and a step is one of three things. -/

namespace Sys2Proof.Machine

/-- Every instruction answers a next state, in every state. -/
theorem exec_next (i : Instr) (s : State) : ∃ t, exec i s = .next t := by
  cases i <;> exact ⟨_, rfl⟩

/-- The state in which the instruction of a step begins: interrupts serviced, the instruction fetched. -/
def State.fetched (s : State) : State := s.sampleInterrupts.fetchInstr.2

/-- The instruction that a step runs. -/
def State.fetchedInstr (s : State) : Instr := s.sampleInterrupts.fetchInstr.1

theorem stepOnce_refused {s : State} (h : s.cfg.undocumentedOpcodes = true) : stepOnce s = .refused .undocumentedOpcodes := by
  simp [stepOnce, h]

theorem stepOnce_idle {s : State} (hc : s.cfg.undocumentedOpcodes = false) (h : s.alive = false) :
    stepOnce s = .next s := by
  simp [stepOnce, hc, h]

theorem stepOnce_run {s t : State} (hc : s.cfg.undocumentedOpcodes = false) (h : s.alive = true)
    (ht : exec s.fetchedInstr s.fetched = .next t) :
    stepOnce s = .next (t.accountCycles.emitTicks s.regs.cyc) := by
  have ht' : exec s.sampleInterrupts.fetchInstr.1 s.sampleInterrupts.fetchInstr.2 = .next t := ht
  simp [stepOnce, hc, h, ht']

/-- The three things a step of an accepted configuration can be (R15): nothing, or the run of one instruction. -/
theorem stepOnce_cases {s u : State} (h : stepOnce s = .next u) :
    s.cfg.undocumentedOpcodes = false ∧
      ((s.alive = false ∧ u = s) ∨
        (s.alive = true ∧ ∃ t, exec s.fetchedInstr s.fetched = .next t ∧ u = t.accountCycles.emitTicks s.regs.cyc)) := by
  cases hc : s.cfg.undocumentedOpcodes with
  | true => rw [stepOnce_refused hc] at h; cases h
  | false =>
    refine ⟨rfl, ?_⟩
    cases ha : s.alive with
    | false => rw [stepOnce_idle hc ha] at h; cases h; exact .inl ⟨rfl, rfl⟩
    | true =>
      obtain ⟨t, ht⟩ := exec_next s.fetchedInstr s.fetched
      rw [stepOnce_run hc ha ht] at h
      cases h
      exact .inr ⟨rfl, t, ht, rfl⟩

/-- Up to the step's own accounting, a step keeps what `Kept` keeps. -/
theorem kept_fetched (s : State) : Kept s s.fetched := (Kept.sampleInterrupts s).trans (Kept.fetchInstr _)

/-! ### The environment's moves -/

/-- The parameters are never changed by a move. -/
theorem applyMove_cfg (s : State) (m : Move) : (s.applyMove m).cfg = s.cfg := by
  cases m with
  | nmiLine level => exact (Kept.nmiInput _ level).cfg
  | _ => rfl

theorem foldl_applyMove_cfg (ms : List Move) : ∀ s : State, (ms.foldl State.applyMove s).cfg = s.cfg := by
  induction ms with
  | nil => intro s; rfl
  | cons m ms ih => intro s; exact (ih _).trans (applyMove_cfg s m)

@[simp] theorem State.boundary_cfg (s : State) : s.boundary.cfg = s.cfg := by
  unfold State.boundary
  split
  · rfl
  · exact foldl_applyMove_cfg _ _

/-- Without a move listed, the boundary changes nothing. -/
theorem State.boundary_of_no_moves {s : State} (h : s.inputs.moves = []) : s.boundary = s := by
  unfold State.boundary
  rw [h]

/-! ### Runs -/

/-- A run of one step more: the step, then the rest, in any machine. -/
theorem host_run_succ (M : Host.Core) (n : Nat) {s t : M.State} (h : M.step s = .next t) :
    M.run (n + 1) s = M.run n t := by
  rw [Host.Core.run, h]

theorem core_run_zero (s : State) : Sys2Proof.core.run 0 s = .next s := rfl

theorem core_run_succ {s t : State} (h : step s = .next t) (n : Nat) :
    Sys2Proof.core.run (n + 1) s = Sys2Proof.core.run n t :=
  host_run_succ Sys2Proof.core n h

end Sys2Proof.Machine
end

