-- ==== Sys2Proof/Laws/Drivers.lean ====
section
/-! SUPPORT. What one round of a driver can do (spec 47_step_and_run.md R236, R237): it ends the run or goes on with one step's
state, and a step that ends not alive ends the run before any further move of the environment (R239). -/

namespace Sys2Proof.Machine

section
variable {s t : State} (fuel : Nat)

/-- A core that is not alive at a boundary is left as it is. -/
theorem runEternally_of_not_alive (h : s.boundary.alive = false) : runEternally (fuel + 1) s = .next s.boundary := by
  simp [runEternally, h]

/-- The run ends in the state of the step that ended not alive: the illegal-opcode step (R239 (a)). -/
theorem runEternally_of_last_step (h : s.boundary.alive = true) (hs : stepOnce s.boundary = .next t) (ht : t.alive = false) :
    runEternally (fuel + 1) s = .next t := by
  simp [runEternally, h, hs, ht]

/-- After a step that ends alive the run goes on. -/
theorem runEternally_of_live_step (h : s.boundary.alive = true) (hs : stepOnce s.boundary = .next t) (ht : t.alive = true) :
    runEternally (fuel + 1) s = runEternally fuel t := by
  simp [runEternally, h, hs, ht]

variable (method : BudgetMethod) {budget : Int}

/-- A used-up budget ends the run with no move and no step (R239 (b)). -/
theorem runLoop_of_no_budget (h : budget ≤ 0) : runLoop method (fuel + 1) budget s = .next (s, budget) := by
  simp [runLoop, h]

theorem runLoop_of_not_alive (hb : 0 < budget) (h : s.boundary.alive = false) :
    runLoop method (fuel + 1) budget s = .next (s.boundary, budget) := by
  simp [runLoop, h, Int.not_le.mpr hb]

/-- The step that ended not alive ends the run and is not charged (R236). -/
theorem runLoop_of_last_step (hb : 0 < budget) (h : s.boundary.alive = true) (hs : stepOnce s.boundary = .next t)
    (ht : t.alive = false) : runLoop method (fuel + 1) budget s = .next (t, budget) := by
  simp [runLoop, h, hs, ht, Int.not_le.mpr hb]

theorem runLoop_of_live_step (hb : 0 < budget) (h : s.boundary.alive = true) (hs : stepOnce s.boundary = .next t)
    (ht : t.alive = true) :
    runLoop method (fuel + 1) budget s = runLoop method fuel (budget - charge method s.boundary t) t := by
  simp [runLoop, h, hs, ht, Int.not_le.mpr hb]

end

/-- `RunEternally` never faults and never refuses, whatever its bound (R239, R240). -/
theorem runEternally_next (fuel : Nat) : ∀ s : State, s.cfg.undocumentedOpcodes = false →
    ∃ t, runEternally fuel s = .next t := by
  induction fuel with
  | zero => intro s _; exact ⟨s, rfl⟩
  | succ fuel ih =>
    intro s hc
    have hb : s.boundary.cfg.undocumentedOpcodes = false := by simpa using hc
    cases ha : s.boundary.alive with
    | false => exact ⟨_, runEternally_of_not_alive fuel ha⟩
    | true =>
      obtain ⟨u, hu⟩ := exec_next s.boundary.fetchedInstr s.boundary.fetched
      have hs := stepOnce_run hb ha hu
      cases ht : (u.accountCycles.emitTicks s.boundary.regs.cyc).alive with
      | false => exact ⟨_, runEternally_of_last_step fuel ha hs ht⟩
      | true =>
        rw [runEternally_of_live_step fuel ha hs ht]
        refine ih _ ?_
        have hk : u.cfg = s.boundary.fetched.cfg := (Kept.exec hu).cfg
        simpa [State.accountCycles, State.emitTicks, hk, (kept_fetched s.boundary).cfg] using hc

end Sys2Proof.Machine
end

