-- ==== Sys2Proof/Laws/PerInstr.lean ====
section
/-! SUPPORT. A family of statements about each instruction as syntax: it is well formed exactly if the encoder has an opcode
byte for it (spec 40_addressing_modes.md R116 against 30_encoding.md R84 and R85). -/

namespace Sys2Proof.Laws.WfEncodes

/-- An instruction is well formed exactly if the opcode map by mnemonic gives it a byte. -/
def Statement (i : Instr) : Prop := i.wf = true ↔ i.opcode?.isSome = true

theorem lda (o : Operand) : Statement (.lda o) := by
  cases o <;> first | exact iff_of_true rfl rfl | exact iff_of_false Bool.false_ne_true Bool.false_ne_true
theorem ldx (o : Operand) : Statement (.ldx o) := by
  cases o <;> first | exact iff_of_true rfl rfl | exact iff_of_false Bool.false_ne_true Bool.false_ne_true
theorem ldy (o : Operand) : Statement (.ldy o) := by
  cases o <;> first | exact iff_of_true rfl rfl | exact iff_of_false Bool.false_ne_true Bool.false_ne_true
theorem sta (o : Operand) : Statement (.sta o) := by
  cases o <;> first | exact iff_of_true rfl rfl | exact iff_of_false Bool.false_ne_true Bool.false_ne_true
theorem stx (o : Operand) : Statement (.stx o) := by
  cases o <;> first | exact iff_of_true rfl rfl | exact iff_of_false Bool.false_ne_true Bool.false_ne_true
theorem sty (o : Operand) : Statement (.sty o) := by
  cases o <;> first | exact iff_of_true rfl rfl | exact iff_of_false Bool.false_ne_true Bool.false_ne_true
theorem tax : Statement .tax := iff_of_true rfl rfl
theorem tay : Statement .tay := iff_of_true rfl rfl
theorem txa : Statement .txa := iff_of_true rfl rfl
theorem tya : Statement .tya := iff_of_true rfl rfl
theorem tsx : Statement .tsx := iff_of_true rfl rfl
theorem txs : Statement .txs := iff_of_true rfl rfl
theorem adc (o : Operand) : Statement (.adc o) := by
  cases o <;> first | exact iff_of_true rfl rfl | exact iff_of_false Bool.false_ne_true Bool.false_ne_true
theorem sbc (o : Operand) : Statement (.sbc o) := by
  cases o <;> first | exact iff_of_true rfl rfl | exact iff_of_false Bool.false_ne_true Bool.false_ne_true
theorem and (o : Operand) : Statement (.and o) := by
  cases o <;> first | exact iff_of_true rfl rfl | exact iff_of_false Bool.false_ne_true Bool.false_ne_true
theorem eor (o : Operand) : Statement (.eor o) := by
  cases o <;> first | exact iff_of_true rfl rfl | exact iff_of_false Bool.false_ne_true Bool.false_ne_true
theorem ora (o : Operand) : Statement (.ora o) := by
  cases o <;> first | exact iff_of_true rfl rfl | exact iff_of_false Bool.false_ne_true Bool.false_ne_true
theorem asl (o : Operand) : Statement (.asl o) := by
  cases o <;> first | exact iff_of_true rfl rfl | exact iff_of_false Bool.false_ne_true Bool.false_ne_true
theorem lsr (o : Operand) : Statement (.lsr o) := by
  cases o <;> first | exact iff_of_true rfl rfl | exact iff_of_false Bool.false_ne_true Bool.false_ne_true
theorem rol (o : Operand) : Statement (.rol o) := by
  cases o <;> first | exact iff_of_true rfl rfl | exact iff_of_false Bool.false_ne_true Bool.false_ne_true
theorem ror (o : Operand) : Statement (.ror o) := by
  cases o <;> first | exact iff_of_true rfl rfl | exact iff_of_false Bool.false_ne_true Bool.false_ne_true
theorem bit (o : Operand) : Statement (.bit o) := by
  cases o <;> first | exact iff_of_true rfl rfl | exact iff_of_false Bool.false_ne_true Bool.false_ne_true
theorem cmp (o : Operand) : Statement (.cmp o) := by
  cases o <;> first | exact iff_of_true rfl rfl | exact iff_of_false Bool.false_ne_true Bool.false_ne_true
theorem cpx (o : Operand) : Statement (.cpx o) := by
  cases o <;> first | exact iff_of_true rfl rfl | exact iff_of_false Bool.false_ne_true Bool.false_ne_true
theorem cpy (o : Operand) : Statement (.cpy o) := by
  cases o <;> first | exact iff_of_true rfl rfl | exact iff_of_false Bool.false_ne_true Bool.false_ne_true
theorem inc (o : Operand) : Statement (.inc o) := by
  cases o <;> first | exact iff_of_true rfl rfl | exact iff_of_false Bool.false_ne_true Bool.false_ne_true
theorem dec (o : Operand) : Statement (.dec o) := by
  cases o <;> first | exact iff_of_true rfl rfl | exact iff_of_false Bool.false_ne_true Bool.false_ne_true
theorem inx : Statement .inx := iff_of_true rfl rfl
theorem iny : Statement .iny := iff_of_true rfl rfl
theorem dex : Statement .dex := iff_of_true rfl rfl
theorem dey : Statement .dey := iff_of_true rfl rfl
theorem bcc (o : Operand) : Statement (.bcc o) := by
  cases o <;> first | exact iff_of_true rfl rfl | exact iff_of_false Bool.false_ne_true Bool.false_ne_true
theorem bcs (o : Operand) : Statement (.bcs o) := by
  cases o <;> first | exact iff_of_true rfl rfl | exact iff_of_false Bool.false_ne_true Bool.false_ne_true
theorem beq (o : Operand) : Statement (.beq o) := by
  cases o <;> first | exact iff_of_true rfl rfl | exact iff_of_false Bool.false_ne_true Bool.false_ne_true
theorem bne (o : Operand) : Statement (.bne o) := by
  cases o <;> first | exact iff_of_true rfl rfl | exact iff_of_false Bool.false_ne_true Bool.false_ne_true
theorem bmi (o : Operand) : Statement (.bmi o) := by
  cases o <;> first | exact iff_of_true rfl rfl | exact iff_of_false Bool.false_ne_true Bool.false_ne_true
theorem bpl (o : Operand) : Statement (.bpl o) := by
  cases o <;> first | exact iff_of_true rfl rfl | exact iff_of_false Bool.false_ne_true Bool.false_ne_true
theorem bvc (o : Operand) : Statement (.bvc o) := by
  cases o <;> first | exact iff_of_true rfl rfl | exact iff_of_false Bool.false_ne_true Bool.false_ne_true
theorem bvs (o : Operand) : Statement (.bvs o) := by
  cases o <;> first | exact iff_of_true rfl rfl | exact iff_of_false Bool.false_ne_true Bool.false_ne_true
theorem jmp (o : Operand) : Statement (.jmp o) := by
  cases o <;> first | exact iff_of_true rfl rfl | exact iff_of_false Bool.false_ne_true Bool.false_ne_true
theorem jsr (o : Operand) : Statement (.jsr o) := by
  cases o <;> first | exact iff_of_true rfl rfl | exact iff_of_false Bool.false_ne_true Bool.false_ne_true
theorem rts : Statement .rts := iff_of_true rfl rfl
theorem rti : Statement .rti := iff_of_true rfl rfl
theorem brk : Statement .brk := iff_of_true rfl rfl
theorem clc : Statement .clc := iff_of_true rfl rfl
theorem sec : Statement .sec := iff_of_true rfl rfl
theorem cld : Statement .cld := iff_of_true rfl rfl
theorem sed : Statement .sed := iff_of_true rfl rfl
theorem cli : Statement .cli := iff_of_true rfl rfl
theorem sei : Statement .sei := iff_of_true rfl rfl
theorem clv : Statement .clv := iff_of_true rfl rfl
theorem pha : Statement .pha := iff_of_true rfl rfl
theorem php : Statement .php := iff_of_true rfl rfl
theorem pla : Statement .pla := iff_of_true rfl rfl
theorem plp : Statement .plp := iff_of_true rfl rfl
theorem nop : Statement .nop := iff_of_true rfl rfl
theorem illegal (opcode : Byte) : Statement (.illegal opcode) := by
  have e : (Instr.illegal opcode).wf = illegalBytes.contains opcode := by
    show (true && illegalBytes.contains opcode) = _
    simp
  rw [Statement, e, Instr.opcode?]
  cases illegalBytes.contains opcode <;> simp

end Sys2Proof.Laws.WfEncodes
end

