-- ==== Sys2Proof/Laws/Stack.lean ====
section
/-! SUPPORT. The stack page: its slots are distinct and lie apart from the vectors; what a bus access tells about another one. -/

namespace Sys2Proof.Machine

theorem stackAddress_eq_stackSlot (b : Byte) : stackAddress b = stackSlot b := by
  apply BitVec.eq_of_toNat_eq
  have := b.isLt
  rw [stackAddress, wordOf_toNat, stackSlot, BitVec.toNat_ofNat]
  simp; omega

theorem stackSlot_toNat (b : Byte) : (stackSlot b).toNat = 256 + b.toNat := by
  have := b.isLt
  simp [stackSlot]; omega

theorem stackSlot_inj {a b : Byte} : stackSlot a = stackSlot b ↔ a = b := by
  refine ⟨fun h => BitVec.eq_of_toNat_eq ?_, fun h => h ▸ rfl⟩
  have := congrArg BitVec.toNat h
  rw [stackSlot_toNat, stackSlot_toNat] at this
  omega

/-- An address outside page 1 is no stack slot. -/
theorem ne_stackSlot {a : Word} (h : 512 ≤ a.toNat) (b : Byte) : a ≠ stackSlot b := by
  intro e
  have := b.isLt
  rw [e, stackSlot_toNat] at h
  omega

/-- The three slots of a service are distinct. -/
theorem slots_distinct (b : Byte) : b ≠ b - 1#8 ∧ b ≠ b - 2#8 ∧ b - 1#8 ≠ b - 2#8 := by revert b; decide

/-- Steps of SP taken one after the other. -/
theorem sp_steps (b : Byte) :
    b - 1#8 - 1#8 = b - 2#8 ∧ b - 2#8 - 1#8 = b - 3#8 ∧ b + 1#8 + 1#8 = b + 2#8 ∧ b + 2#8 + 1#8 = b + 3#8 := by
  revert b; decide

/-- Memory after a bus write, at any address (R60, R66, R61). -/
theorem Bus.read_afterWrite {b : Bus} (h : b.mem.wf = true) (a c : Word) (v : Byte) :
    (b.afterWrite a v).mem.read c.toNat =
      if c = a then (if b.kindAt a = none then v else b.mem.read c.toNat) else b.mem.read c.toNat := by
  split
  · subst c; split
    · rename_i hk; exact Bus.afterWrite_read_same hk h v
    · rename_i hk; rw [Bus.afterWrite_mem_region hk]
  · rename_i hn; exact Bus.afterWrite_read_other _ hn v

/-- A write does not change what the bus answers at another address. -/
theorem Bus.value_afterWrite (b : Bus) {a c : Word} (h : c ≠ a) (v : Byte) : (b.afterWrite a v).value c = b.value c := by
  unfold Bus.value
  rw [Bus.afterWrite_kindAt, Bus.afterWrite_answers, Bus.afterWrite_freeReads, Bus.afterWrite_read_other b h]

/-- What a read answers after another read depends on memory, the regions and the environment's answers alone. -/
theorem Bus.value_afterRead_congr {b c : Bus} (hr : b.regions = c.regions) (ha : b.answers = c.answers)
    (hf : b.freeReads = c.freeReads) (x y : Word) (hm : b.mem.read y.toNat = c.mem.read y.toNat) :
    (b.afterRead x).value y = (c.afterRead x).value y := by
  have hk : ∀ z, b.kindAt z = c.kindAt z := fun z => by simp [Bus.kindAt, hr]
  have h1 : (b.afterRead x).answers = (c.afterRead x).answers := by
    unfold Bus.afterRead; rw [hk, ha]; split
    · split <;> simp
    · rfl
  have h2 : (b.afterRead x).freeReads = (c.afterRead x).freeReads := by
    unfold Bus.afterRead; rw [hk, ha]; split
    · split <;> simp [hf]
    · simp [hf]
  unfold Bus.value
  rw [Bus.afterRead_kindAt, Bus.afterRead_kindAt, Bus.afterRead_mem, Bus.afterRead_mem, hk, h1, h2, hm]

theorem Bus.value_afterRead_afterWrite (b : Bus) {a y : Word} (x : Word) (h : y ≠ a) (v : Byte) :
    ((b.afterWrite a v).afterRead x).value y = (b.afterRead x).value y :=
  Bus.value_afterRead_congr (by simp) (by simp) (by simp) x y (Bus.afterWrite_read_other b h v)

/-- A read that no device answers leaves the other reads as they were. -/
theorem Bus.value_afterRead_of_not_external {b : Bus} {x : Word} (h : b.kindAt x ≠ some .external) (y : Word) :
    (b.afterRead x).value y = b.value y := by
  rw [Bus.afterRead_of_not_external h]; rfl

end Sys2Proof.Machine
end

