-- ==== Sys2Proof/Tests/Slice0.lean ====
section
/-! SUPPORT. The model's own tests.  Expected values are the spec's: the encodings are those of spec/opcode_table.json and
30_encoding.md R83 to R85, the steps and runs those of spec/95_test_vectors.md (the vector's name stands in the theorem's
name), the interrupt cases those of its VI list and of 60_exceptions.md.  The witnesses at the end show that the hypotheses of
each statement can be met. -/

namespace Sys2Proof.Tests

open Sys2Proof Sys2Proof.Machine

/-! ### Well-formedness: each check refuses an ill-formed term -/

/-- The mode check (R116): there is no STA immediate. -/
theorem test_wf_refuses_a_mode : (Instr.sta (.imm 0x00)).wf = false := by decide

/-- The same check on the spec's other examples: LDX in mode ABX, JSR indirect; and an operand of mode IMP for LDA. -/
theorem test_wf_refuses_more_modes :
    (Instr.ldx (.abx 0x1234)).wf = false ∧ (Instr.jsr (.abi 0x1234)).wf = false ∧ (Instr.lda .imp).wf = false := by decide

/-- The byte check (R85): NOP's byte is no ILLEGAL entry. -/
theorem test_wf_refuses_an_official_byte : (Instr.illegal 0xEA).wf = false := by decide

theorem test_wf_accepts : (Instr.illegal 0x02).wf = true ∧ (Instr.sta (.iny 0x40)).wf = true := by decide

/-- An ill-formed instruction has no encoding, and bytes that end too early do not decode. -/
theorem test_no_bytes_for_ill_formed : encode (.sta (.imm 0x00)) = [] := by decide

/-- Whether bytes decode, all of them, to an instruction. -/
def decodesTo (bytes : List Byte) (i : Instr) : Bool :=
  match decode bytes with
  | .ok (j, []) => j == i
  | _ => false

/-- Whether bytes are rejected for a missing operand byte of a mnemonic. -/
def tooShort (bytes : List Byte) (m : Mnemonic) : Bool :=
  match decode bytes with
  | .error (.missingOperand n) => n == m
  | _ => false

theorem test_decode_names_what_is_missing :
    tooShort [0xA9] .lda = true ∧ tooShort [0x4C, 0x00] .jmp = true ∧ tooShort [0x20] .jsr = true := by decide

/-! ### Decoding: every row of the official map, its bytes written out, operand bytes low byte first -/

/-- One word of each format and family, written bit by bit from the spec's encoding column. -/
theorem test_decode_bit_by_bit :
    decodesTo [0b10101001, 0b00000101] (.lda (.imm 5)) = true ∧
    decodesTo [0b01101001, 0b00000011] (.adc (.imm 3)) = true ∧
    decodesTo [0b00001010] (.asl .acc) = true ∧
    decodesTo [0b11001001, 0b00110000] (.cmp (.imm 0x30)) = true ∧
    decodesTo [0b11010000, 0b11111110] (.bne (.rel 0xFE)) = true ∧
    decodesTo [0b01101100, 0b11111111, 0b00010000] (.jmp (.abi 0x10FF)) = true ∧
    decodesTo [0b01001000] .pha = true ∧ decodesTo [0b00000000] .brk = true ∧
    decodesTo [0b00000010] (.illegal 0b00000010) = true := by decide

theorem test_decode_loads_and_stores_1 :
    decodesTo [0xA1, 0x9C] (.lda (.inx 0x9C)) = true ∧
    decodesTo [0xA5, 0x9C] (.lda (.zer 0x9C)) = true ∧
    decodesTo [0xA9, 0x9C] (.lda (.imm 0x9C)) = true ∧
    decodesTo [0xAD, 0xF1, 0x2E] (.lda (.abs 0x2EF1)) = true ∧
    decodesTo [0xB1, 0x9C] (.lda (.iny 0x9C)) = true ∧
    decodesTo [0xB5, 0x9C] (.lda (.zex 0x9C)) = true ∧
    decodesTo [0xB9, 0xF1, 0x2E] (.lda (.aby 0x2EF1)) = true ∧
    decodesTo [0xBD, 0xF1, 0x2E] (.lda (.abx 0x2EF1)) = true ∧
    decodesTo [0xA2, 0x9C] (.ldx (.imm 0x9C)) = true ∧
    decodesTo [0xA6, 0x9C] (.ldx (.zer 0x9C)) = true ∧
    decodesTo [0xAE, 0xF1, 0x2E] (.ldx (.abs 0x2EF1)) = true ∧
    decodesTo [0xB6, 0x9C] (.ldx (.zey 0x9C)) = true ∧
    decodesTo [0xBE, 0xF1, 0x2E] (.ldx (.aby 0x2EF1)) = true ∧
    decodesTo [0xA0, 0x9C] (.ldy (.imm 0x9C)) = true ∧
    decodesTo [0xA4, 0x9C] (.ldy (.zer 0x9C)) = true ∧
    decodesTo [0xAC, 0xF1, 0x2E] (.ldy (.abs 0x2EF1)) = true := by decide

theorem test_decode_loads_and_stores_2 :
    decodesTo [0xB4, 0x9C] (.ldy (.zex 0x9C)) = true ∧
    decodesTo [0xBC, 0xF1, 0x2E] (.ldy (.abx 0x2EF1)) = true ∧
    decodesTo [0x81, 0x9C] (.sta (.inx 0x9C)) = true ∧
    decodesTo [0x85, 0x9C] (.sta (.zer 0x9C)) = true ∧
    decodesTo [0x8D, 0xF1, 0x2E] (.sta (.abs 0x2EF1)) = true ∧
    decodesTo [0x91, 0x9C] (.sta (.iny 0x9C)) = true ∧
    decodesTo [0x95, 0x9C] (.sta (.zex 0x9C)) = true ∧
    decodesTo [0x99, 0xF1, 0x2E] (.sta (.aby 0x2EF1)) = true ∧
    decodesTo [0x9D, 0xF1, 0x2E] (.sta (.abx 0x2EF1)) = true ∧
    decodesTo [0x86, 0x9C] (.stx (.zer 0x9C)) = true ∧
    decodesTo [0x8E, 0xF1, 0x2E] (.stx (.abs 0x2EF1)) = true ∧
    decodesTo [0x96, 0x9C] (.stx (.zey 0x9C)) = true ∧
    decodesTo [0x84, 0x9C] (.sty (.zer 0x9C)) = true ∧
    decodesTo [0x8C, 0xF1, 0x2E] (.sty (.abs 0x2EF1)) = true ∧
    decodesTo [0x94, 0x9C] (.sty (.zex 0x9C)) = true := by decide

theorem test_decode_transfers :
    decodesTo [0xAA] .tax = true ∧
    decodesTo [0xA8] .tay = true ∧
    decodesTo [0x8A] .txa = true ∧
    decodesTo [0x98] .tya = true ∧
    decodesTo [0xBA] .tsx = true ∧
    decodesTo [0x9A] .txs = true := by decide

theorem test_decode_arithmetic :
    decodesTo [0x61, 0x9C] (.adc (.inx 0x9C)) = true ∧
    decodesTo [0x65, 0x9C] (.adc (.zer 0x9C)) = true ∧
    decodesTo [0x69, 0x9C] (.adc (.imm 0x9C)) = true ∧
    decodesTo [0x6D, 0xF1, 0x2E] (.adc (.abs 0x2EF1)) = true ∧
    decodesTo [0x71, 0x9C] (.adc (.iny 0x9C)) = true ∧
    decodesTo [0x75, 0x9C] (.adc (.zex 0x9C)) = true ∧
    decodesTo [0x79, 0xF1, 0x2E] (.adc (.aby 0x2EF1)) = true ∧
    decodesTo [0x7D, 0xF1, 0x2E] (.adc (.abx 0x2EF1)) = true ∧
    decodesTo [0xE1, 0x9C] (.sbc (.inx 0x9C)) = true ∧
    decodesTo [0xE5, 0x9C] (.sbc (.zer 0x9C)) = true ∧
    decodesTo [0xE9, 0x9C] (.sbc (.imm 0x9C)) = true ∧
    decodesTo [0xED, 0xF1, 0x2E] (.sbc (.abs 0x2EF1)) = true ∧
    decodesTo [0xF1, 0x9C] (.sbc (.iny 0x9C)) = true ∧
    decodesTo [0xF5, 0x9C] (.sbc (.zex 0x9C)) = true ∧
    decodesTo [0xF9, 0xF1, 0x2E] (.sbc (.aby 0x2EF1)) = true ∧
    decodesTo [0xFD, 0xF1, 0x2E] (.sbc (.abx 0x2EF1)) = true := by decide

theorem test_decode_logic_and_bit_1 :
    decodesTo [0x21, 0x9C] (.and (.inx 0x9C)) = true ∧
    decodesTo [0x25, 0x9C] (.and (.zer 0x9C)) = true ∧
    decodesTo [0x29, 0x9C] (.and (.imm 0x9C)) = true ∧
    decodesTo [0x2D, 0xF1, 0x2E] (.and (.abs 0x2EF1)) = true ∧
    decodesTo [0x31, 0x9C] (.and (.iny 0x9C)) = true ∧
    decodesTo [0x35, 0x9C] (.and (.zex 0x9C)) = true ∧
    decodesTo [0x39, 0xF1, 0x2E] (.and (.aby 0x2EF1)) = true ∧
    decodesTo [0x3D, 0xF1, 0x2E] (.and (.abx 0x2EF1)) = true ∧
    decodesTo [0x41, 0x9C] (.eor (.inx 0x9C)) = true ∧
    decodesTo [0x45, 0x9C] (.eor (.zer 0x9C)) = true ∧
    decodesTo [0x49, 0x9C] (.eor (.imm 0x9C)) = true ∧
    decodesTo [0x4D, 0xF1, 0x2E] (.eor (.abs 0x2EF1)) = true ∧
    decodesTo [0x51, 0x9C] (.eor (.iny 0x9C)) = true ∧
    decodesTo [0x55, 0x9C] (.eor (.zex 0x9C)) = true ∧
    decodesTo [0x59, 0xF1, 0x2E] (.eor (.aby 0x2EF1)) = true ∧
    decodesTo [0x5D, 0xF1, 0x2E] (.eor (.abx 0x2EF1)) = true := by decide

theorem test_decode_logic_and_bit_2 :
    decodesTo [0x01, 0x9C] (.ora (.inx 0x9C)) = true ∧
    decodesTo [0x05, 0x9C] (.ora (.zer 0x9C)) = true ∧
    decodesTo [0x09, 0x9C] (.ora (.imm 0x9C)) = true ∧
    decodesTo [0x0D, 0xF1, 0x2E] (.ora (.abs 0x2EF1)) = true ∧
    decodesTo [0x11, 0x9C] (.ora (.iny 0x9C)) = true ∧
    decodesTo [0x15, 0x9C] (.ora (.zex 0x9C)) = true ∧
    decodesTo [0x19, 0xF1, 0x2E] (.ora (.aby 0x2EF1)) = true ∧
    decodesTo [0x1D, 0xF1, 0x2E] (.ora (.abx 0x2EF1)) = true ∧
    decodesTo [0x24, 0x9C] (.bit (.zer 0x9C)) = true ∧
    decodesTo [0x2C, 0xF1, 0x2E] (.bit (.abs 0x2EF1)) = true := by decide

theorem test_decode_shifts_1 :
    decodesTo [0x06, 0x9C] (.asl (.zer 0x9C)) = true ∧
    decodesTo [0x0A] (.asl .acc) = true ∧
    decodesTo [0x0E, 0xF1, 0x2E] (.asl (.abs 0x2EF1)) = true ∧
    decodesTo [0x16, 0x9C] (.asl (.zex 0x9C)) = true ∧
    decodesTo [0x1E, 0xF1, 0x2E] (.asl (.abx 0x2EF1)) = true ∧
    decodesTo [0x46, 0x9C] (.lsr (.zer 0x9C)) = true ∧
    decodesTo [0x4A] (.lsr .acc) = true ∧
    decodesTo [0x4E, 0xF1, 0x2E] (.lsr (.abs 0x2EF1)) = true ∧
    decodesTo [0x56, 0x9C] (.lsr (.zex 0x9C)) = true ∧
    decodesTo [0x5E, 0xF1, 0x2E] (.lsr (.abx 0x2EF1)) = true ∧
    decodesTo [0x26, 0x9C] (.rol (.zer 0x9C)) = true ∧
    decodesTo [0x2A] (.rol .acc) = true ∧
    decodesTo [0x2E, 0xF1, 0x2E] (.rol (.abs 0x2EF1)) = true ∧
    decodesTo [0x36, 0x9C] (.rol (.zex 0x9C)) = true ∧
    decodesTo [0x3E, 0xF1, 0x2E] (.rol (.abx 0x2EF1)) = true ∧
    decodesTo [0x66, 0x9C] (.ror (.zer 0x9C)) = true := by decide

theorem test_decode_shifts_2 :
    decodesTo [0x6A] (.ror .acc) = true ∧
    decodesTo [0x6E, 0xF1, 0x2E] (.ror (.abs 0x2EF1)) = true ∧
    decodesTo [0x76, 0x9C] (.ror (.zex 0x9C)) = true ∧
    decodesTo [0x7E, 0xF1, 0x2E] (.ror (.abx 0x2EF1)) = true := by decide

theorem test_decode_compares :
    decodesTo [0xC1, 0x9C] (.cmp (.inx 0x9C)) = true ∧
    decodesTo [0xC5, 0x9C] (.cmp (.zer 0x9C)) = true ∧
    decodesTo [0xC9, 0x9C] (.cmp (.imm 0x9C)) = true ∧
    decodesTo [0xCD, 0xF1, 0x2E] (.cmp (.abs 0x2EF1)) = true ∧
    decodesTo [0xD1, 0x9C] (.cmp (.iny 0x9C)) = true ∧
    decodesTo [0xD5, 0x9C] (.cmp (.zex 0x9C)) = true ∧
    decodesTo [0xD9, 0xF1, 0x2E] (.cmp (.aby 0x2EF1)) = true ∧
    decodesTo [0xDD, 0xF1, 0x2E] (.cmp (.abx 0x2EF1)) = true ∧
    decodesTo [0xE0, 0x9C] (.cpx (.imm 0x9C)) = true ∧
    decodesTo [0xE4, 0x9C] (.cpx (.zer 0x9C)) = true ∧
    decodesTo [0xEC, 0xF1, 0x2E] (.cpx (.abs 0x2EF1)) = true ∧
    decodesTo [0xC0, 0x9C] (.cpy (.imm 0x9C)) = true ∧
    decodesTo [0xC4, 0x9C] (.cpy (.zer 0x9C)) = true ∧
    decodesTo [0xCC, 0xF1, 0x2E] (.cpy (.abs 0x2EF1)) = true := by decide

theorem test_decode_increments :
    decodesTo [0xE6, 0x9C] (.inc (.zer 0x9C)) = true ∧
    decodesTo [0xEE, 0xF1, 0x2E] (.inc (.abs 0x2EF1)) = true ∧
    decodesTo [0xF6, 0x9C] (.inc (.zex 0x9C)) = true ∧
    decodesTo [0xFE, 0xF1, 0x2E] (.inc (.abx 0x2EF1)) = true ∧
    decodesTo [0xC6, 0x9C] (.dec (.zer 0x9C)) = true ∧
    decodesTo [0xCE, 0xF1, 0x2E] (.dec (.abs 0x2EF1)) = true ∧
    decodesTo [0xD6, 0x9C] (.dec (.zex 0x9C)) = true ∧
    decodesTo [0xDE, 0xF1, 0x2E] (.dec (.abx 0x2EF1)) = true ∧
    decodesTo [0xE8] .inx = true ∧
    decodesTo [0xC8] .iny = true ∧
    decodesTo [0xCA] .dex = true ∧
    decodesTo [0x88] .dey = true := by decide

theorem test_decode_branches :
    decodesTo [0x90, 0x9C] (.bcc (.rel 0x9C)) = true ∧
    decodesTo [0xB0, 0x9C] (.bcs (.rel 0x9C)) = true ∧
    decodesTo [0xF0, 0x9C] (.beq (.rel 0x9C)) = true ∧
    decodesTo [0xD0, 0x9C] (.bne (.rel 0x9C)) = true ∧
    decodesTo [0x30, 0x9C] (.bmi (.rel 0x9C)) = true ∧
    decodesTo [0x10, 0x9C] (.bpl (.rel 0x9C)) = true ∧
    decodesTo [0x50, 0x9C] (.bvc (.rel 0x9C)) = true ∧
    decodesTo [0x70, 0x9C] (.bvs (.rel 0x9C)) = true := by decide

theorem test_decode_jumps :
    decodesTo [0x4C, 0xF1, 0x2E] (.jmp (.abs 0x2EF1)) = true ∧
    decodesTo [0x6C, 0xF1, 0x2E] (.jmp (.abi 0x2EF1)) = true ∧
    decodesTo [0x20, 0xF1, 0x2E] (.jsr (.abs 0x2EF1)) = true ∧
    decodesTo [0x60] .rts = true ∧
    decodesTo [0x40] .rti = true ∧
    decodesTo [0x00] .brk = true := by decide

theorem test_decode_flags_stack_nop :
    decodesTo [0x18] .clc = true ∧
    decodesTo [0x38] .sec = true ∧
    decodesTo [0xD8] .cld = true ∧
    decodesTo [0xF8] .sed = true ∧
    decodesTo [0x58] .cli = true ∧
    decodesTo [0x78] .sei = true ∧
    decodesTo [0xB8] .clv = true ∧
    decodesTo [0x48] .pha = true ∧
    decodesTo [0x08] .php = true ∧
    decodesTo [0x68] .pla = true ∧
    decodesTo [0x28] .plp = true ∧
    decodesTo [0xEA] .nop = true := by decide

/-- The first and last ILLEGAL bytes, the JAM codes among them: one byte, no operand (R85, R226). -/
theorem test_decode_illegal :
    ([0x02, 0x12, 0x80, 0x89, 0x9C, 0xEB, 0xFF] : List Byte).all (fun b => decodesTo [b] (.illegal b)) = true := by decide

/-- The opcode table's numbering: bit 0 is the least significant bit of the first byte, later bytes count on. -/
theorem test_decodeTableWord :
    decodeTableWord 24 0x10FF6C = some (.jmp (.abi 0x10FF)) ∧ decodeTableWord 8 0xA9 = some (.lda (.imm 0)) ∧
      decodeTableWord 16 0x80A9 = some (.lda (.imm 0x80)) := by decide

/-! ### Steps -/

/-- A core about to step at `pc`, no input asserted, with the listed bytes in memory. -/
def start (a x y sp p : Byte) (pc : Word) (cells : List (Nat × Byte)) : State :=
  { State.reset with
    regs := { State.reset.regs with a := a, x := x, y := y, sp := sp, p := p, pc := pc }
    bus := { State.reset.bus with mem := cells.foldl (fun m c => m.write c.1 c.2) [], events := [] } }

/-- What one step ends in: the registers, the cycles (and as many ticks), the latch (set exactly
in the tests where no cycle is charged), and the listed bytes written to memory. -/
def ends (s : State) (a x y sp p : Byte) (pc : Word) (cycles : Nat) (writes : List (Nat × Byte)) : Bool :=
  match step s with
  | .next t =>
    t.regs.a == a && t.regs.x == x && t.regs.y == y && t.regs.sp == sp && t.regs.p == p && t.regs.pc == pc &&
      t.regs.cyc.toNat == cycles && t.ticks == cycles && t.regs.halt == decide (cycles = 0) &&
      t.bus.mem == writes.foldl (fun m c => m.write c.1 c.2) s.bus.mem
  | _ => false

theorem test_lda_VM11 :
    ends (start 0x00 0x00 0xFF 0xFD 0x30 0x0200 [(0x0200, 0xB9), (0x0201, 0xFF), (0x0202, 0xFF), (0x00FE, 0x0E)])
      0x0E 0x00 0xFF 0xFD 0x30 0x0203 5 [] = true := by decide

theorem test_lda_VM21 :
    ends (start 0x00 0x00 0x02 0xFD 0x30 0x0200 [(0x0200, 0xB1), (0x0201, 0xFF), (0x0000, 0xFF), (0x0001, 0x8D), (0x00FF, 0xFF), (0x0100, 0x11)])
      0x8D 0x00 0x02 0xFD 0xB0 0x0202 6 [] = true := by decide

theorem test_ldx_VM7 :
    ends (start 0x00 0x00 0x01 0xFD 0x30 0x0200 [(0x0200, 0xB6), (0x0201, 0xFF), (0x0000, 0x44), (0x0100, 0x22)])
      0x00 0x44 0x01 0xFD 0x30 0x0202 4 [] = true := by decide

theorem test_ldx_VL7 :
    ends (start 0x00 0x00 0x80 0xFD 0x30 0x0200 [(0x0200, 0xBE), (0x0201, 0x80), (0x0202, 0x12), (0x1300, 0x81)])
      0x00 0x81 0x80 0xFD 0xB0 0x0203 5 [] = true := by decide

theorem test_ldy_VL8 :
    ends (start 0x00 0x00 0x00 0xFD 0x30 0x0200 [(0x0200, 0xA0), (0x0201, 0x80)])
      0x00 0x00 0x80 0xFD 0xB0 0x0202 2 [] = true := by decide

theorem test_ldy_VL9 :
    ends (start 0x00 0x80 0x01 0xFD 0x30 0x0200 [(0x0200, 0xBC), (0x0201, 0x80), (0x0202, 0x12), (0x1300, 0x00)])
      0x00 0x80 0x00 0xFD 0x32 0x0203 5 [] = true := by decide

theorem test_sta_VM12 :
    ends (start 0xAB 0x01 0x00 0xFD 0x30 0x0200 [(0x0200, 0x9D), (0x0201, 0xFF), (0x0202, 0x12)])
      0xAB 0x01 0x00 0xFD 0x30 0x0203 5 [(0x1300, 0xAB)] = true := by decide

theorem test_sta_VM22 :
    ends (start 0x77 0x00 0x01 0xFD 0x30 0x0200 [(0x0200, 0x91), (0x0201, 0x40), (0x0040, 0xFF), (0x0041, 0x30)])
      0x77 0x00 0x01 0xFD 0x30 0x0202 6 [(0x3100, 0x77)] = true := by decide

theorem test_stx_VL13 :
    ends (start 0x00 0x80 0x00 0xFD 0x30 0x0200 [(0x0200, 0x86), (0x0201, 0x10)])
      0x00 0x80 0x00 0xFD 0x30 0x0202 3 [(0x0010, 0x80)] = true := by decide

theorem test_stx_VL14 :
    ends (start 0x00 0x80 0x90 0xFD 0x30 0x0200 [(0x0200, 0x96), (0x0201, 0x80)])
      0x00 0x80 0x90 0xFD 0x30 0x0202 4 [(0x0010, 0x80)] = true := by decide

theorem test_sty_VL15 :
    ends (start 0x00 0x00 0x00 0xFD 0x30 0x0200 [(0x0200, 0x8C), (0x0201, 0x00), (0x0202, 0x30)])
      0x00 0x00 0x00 0xFD 0x30 0x0203 4 [(0x3000, 0x00)] = true := by decide

theorem test_sty_VL16 :
    ends (start 0x00 0xF0 0x12 0xFD 0x30 0x0200 [(0x0200, 0x94), (0x0201, 0x20)])
      0x00 0xF0 0x12 0xFD 0x30 0x0202 4 [(0x0010, 0x12)] = true := by decide

theorem test_tax_VL17 :
    ends (start 0x80 0x00 0x00 0xFD 0x30 0x0200 [(0x0200, 0xAA)])
      0x80 0x80 0x00 0xFD 0xB0 0x0201 2 [] = true := by decide

theorem test_tay_VL18 :
    ends (start 0x00 0x00 0x44 0xFD 0x30 0x0200 [(0x0200, 0xA8)])
      0x00 0x00 0x00 0xFD 0x32 0x0201 2 [] = true := by decide

theorem test_txa_VL19 :
    ends (start 0x12 0x00 0x00 0xFD 0x30 0x0200 [(0x0200, 0x8A)])
      0x00 0x00 0x00 0xFD 0x32 0x0201 2 [] = true := by decide

theorem test_tya_VL20 :
    ends (start 0x00 0x00 0xFF 0xFD 0x30 0x0200 [(0x0200, 0x98)])
      0xFF 0x00 0xFF 0xFD 0xB0 0x0201 2 [] = true := by decide

theorem test_tsx_VL21 :
    ends (start 0x00 0x00 0x00 0xFD 0x30 0x0200 [(0x0200, 0xBA)])
      0x00 0xFD 0x00 0xFD 0xB0 0x0201 2 [] = true := by decide

theorem test_tsx_VL22 :
    ends (start 0x00 0x01 0x00 0x00 0x30 0x0200 [(0x0200, 0xBA)])
      0x00 0x00 0x00 0x00 0x32 0x0201 2 [] = true := by decide

theorem test_txs_VL23 :
    ends (start 0x00 0x00 0x00 0xFD 0xB0 0x0200 [(0x0200, 0x9A)])
      0x00 0x00 0x00 0x00 0xB0 0x0201 2 [] = true := by decide

theorem test_txs_VL24 :
    ends (start 0x00 0xFF 0x00 0xFD 0x30 0x0200 [(0x0200, 0x9A)])
      0x00 0xFF 0x00 0xFF 0x30 0x0201 2 [] = true := by decide

theorem test_adc_VA5 :
    ends (start 0x50 0x00 0x00 0xFD 0x30 0x0200 [(0x0200, 0x69), (0x0201, 0x50)])
      0xA0 0x00 0x00 0xFD 0xF0 0x0202 2 [] = true := by decide

theorem test_adc_VA14 :
    ends (start 0x58 0x00 0x00 0xFD 0x39 0x0200 [(0x0200, 0x69), (0x0201, 0x46)])
      0x05 0x00 0x00 0xFD 0xF9 0x0202 2 [] = true := by decide

theorem test_sbc_VA36 :
    ends (start 0x7F 0x00 0x00 0xFD 0x31 0x0200 [(0x0200, 0xE9), (0x0201, 0xFF)])
      0x80 0x00 0x00 0xFD 0xF0 0x0202 2 [] = true := by decide

theorem test_sbc_VA55 :
    ends (start 0x00 0x00 0x00 0xFD 0x39 0x0200 [(0x0200, 0xE9), (0x0201, 0x0F)])
      0x9B 0x00 0x00 0xFD 0xB8 0x0202 2 [] = true := by decide

theorem test_and_VT1 :
    ends (start 0xF0 0x00 0x00 0xFD 0x30 0x0200 [(0x0200, 0x29), (0x0201, 0x0F)])
      0x00 0x00 0x00 0xFD 0x32 0x0202 2 [] = true := by decide

theorem test_and_VT3 :
    ends (start 0xFF 0x00 0x00 0xFD 0x71 0x0200 [(0x0200, 0x29), (0x0201, 0x7F)])
      0x7F 0x00 0x00 0xFD 0x71 0x0202 2 [] = true := by decide

theorem test_eor_VT4 :
    ends (start 0xFF 0x00 0x00 0xFD 0x30 0x0200 [(0x0200, 0x49), (0x0201, 0xFF)])
      0x00 0x00 0x00 0xFD 0x32 0x0202 2 [] = true := by decide

theorem test_eor_VT5 :
    ends (start 0x0F 0x00 0x00 0xFD 0x30 0x0200 [(0x0200, 0x49), (0x0201, 0xF0)])
      0xFF 0x00 0x00 0xFD 0xB0 0x0202 2 [] = true := by decide

theorem test_ora_VT6 :
    ends (start 0x00 0x00 0x00 0xFD 0x30 0x0200 [(0x0200, 0x09), (0x0201, 0x00)])
      0x00 0x00 0x00 0xFD 0x32 0x0202 2 [] = true := by decide

theorem test_ora_VT7 :
    ends (start 0x01 0x00 0x00 0xFD 0x30 0x0200 [(0x0200, 0x09), (0x0201, 0x80)])
      0x81 0x00 0x00 0xFD 0xB0 0x0202 2 [] = true := by decide

theorem test_bit_VT22 :
    ends (start 0x01 0x00 0x00 0xFD 0x30 0x0200 [(0x0200, 0x24), (0x0201, 0x10), (0x0010, 0xC0)])
      0x01 0x00 0x00 0xFD 0xF2 0x0202 3 [] = true := by decide

theorem test_bit_VT25 :
    ends (start 0x00 0x00 0x00 0xFD 0xF0 0x0200 [(0x0200, 0x24), (0x0201, 0x10), (0x0010, 0x00)])
      0x00 0x00 0x00 0xFD 0x32 0x0202 3 [] = true := by decide

theorem test_asl_VM1 :
    ends (start 0x81 0x00 0x00 0xFD 0x30 0x0200 [(0x0200, 0x0A)])
      0x02 0x00 0x00 0xFD 0x31 0x0201 2 [] = true := by decide

theorem test_asl_VT10 :
    ends (start 0x00 0x00 0x00 0xFD 0x30 0x0200 [(0x0200, 0x06), (0x0201, 0x10), (0x0010, 0xFF)])
      0x00 0x00 0x00 0xFD 0xB1 0x0202 5 [(0x0010, 0xFE)] = true := by decide

theorem test_lsr_VT11 :
    ends (start 0x01 0x00 0x00 0xFD 0x30 0x0200 [(0x0200, 0x4A)])
      0x00 0x00 0x00 0xFD 0x33 0x0201 2 [] = true := by decide

theorem test_lsr_VT13 :
    ends (start 0x00 0x01 0x00 0xFD 0x30 0x0200 [(0x0200, 0x5E), (0x0201, 0xFF), (0x0202, 0x12), (0x1300, 0x02)])
      0x00 0x01 0x00 0xFD 0x30 0x0203 7 [(0x1300, 0x01)] = true := by decide

theorem test_rol_VT14 :
    ends (start 0x80 0x00 0x00 0xFD 0x30 0x0200 [(0x0200, 0x2A)])
      0x00 0x00 0x00 0xFD 0x33 0x0201 2 [] = true := by decide

theorem test_rol_VT17 :
    ends (start 0x00 0x00 0x00 0xFD 0x31 0x0200 [(0x0200, 0x26), (0x0201, 0x10), (0x0010, 0x00)])
      0x00 0x00 0x00 0xFD 0x30 0x0202 5 [(0x0010, 0x01)] = true := by decide

theorem test_ror_VT18 :
    ends (start 0x01 0x00 0x00 0xFD 0x30 0x0200 [(0x0200, 0x6A)])
      0x00 0x00 0x00 0xFD 0x33 0x0201 2 [] = true := by decide

theorem test_ror_VT21 :
    ends (start 0x00 0x02 0x00 0xFD 0x31 0x0200 [(0x0200, 0x76), (0x0201, 0x10), (0x0012, 0xFE)])
      0x00 0x02 0x00 0xFD 0xB0 0x0202 6 [(0x0012, 0xFF)] = true := by decide

theorem test_cmp_VK1 :
    ends (start 0x40 0x00 0x00 0xFD 0x30 0x0200 [(0x0200, 0xC9), (0x0201, 0x30)])
      0x40 0x00 0x00 0xFD 0x31 0x0202 2 [] = true := by decide

theorem test_cmp_VK6 :
    ends (start 0x01 0x00 0x00 0xFD 0x79 0x0200 [(0x0200, 0xC9), (0x0201, 0x80)])
      0x01 0x00 0x00 0xFD 0xF8 0x0202 2 [] = true := by decide

theorem test_cpx_VK7 :
    ends (start 0x00 0x05 0x00 0xFD 0x30 0x0200 [(0x0200, 0xE0), (0x0201, 0x05)])
      0x00 0x05 0x00 0xFD 0x33 0x0202 2 [] = true := by decide

theorem test_cpx_VK8 :
    ends (start 0x00 0x00 0x00 0xFD 0x30 0x0200 [(0x0200, 0xE4), (0x0201, 0x10), (0x0010, 0xFF)])
      0x00 0x00 0x00 0xFD 0x30 0x0202 3 [] = true := by decide

theorem test_cpy_VK9 :
    ends (start 0x00 0x00 0x02 0xFD 0x30 0x0200 [(0x0200, 0xC0), (0x0201, 0x03)])
      0x00 0x00 0x02 0xFD 0xB0 0x0202 2 [] = true := by decide

theorem test_cpy_VK10 :
    ends (start 0x00 0x00 0x80 0xFD 0x30 0x0200 [(0x0200, 0xCC), (0x0201, 0x34), (0x0202, 0x12), (0x1234, 0x7F)])
      0x00 0x00 0x80 0xFD 0x31 0x0203 4 [] = true := by decide

theorem test_inc_VK11 :
    ends (start 0x00 0x00 0x00 0xFD 0xF1 0x0200 [(0x0200, 0xE6), (0x0201, 0x10), (0x0010, 0xFF)])
      0x00 0x00 0x00 0xFD 0x73 0x0202 5 [(0x0010, 0x00)] = true := by decide

theorem test_inc_VK13 :
    ends (start 0x00 0xFF 0x00 0xFD 0x30 0x0200 [(0x0200, 0xFE), (0x0201, 0x01), (0x0202, 0x12), (0x1300, 0x00)])
      0x00 0xFF 0x00 0xFD 0x30 0x0203 7 [(0x1300, 0x01)] = true := by decide

theorem test_dec_VK14 :
    ends (start 0x00 0x00 0x00 0xFD 0x30 0x0200 [(0x0200, 0xCE), (0x0201, 0x00), (0x0202, 0x03), (0x0300, 0x01)])
      0x00 0x00 0x00 0xFD 0x32 0x0203 6 [(0x0300, 0x00)] = true := by decide

theorem test_dec_VK15 :
    ends (start 0x00 0x00 0x00 0xFD 0x30 0x0200 [(0x0200, 0xC6), (0x0201, 0x10), (0x0010, 0x00)])
      0x00 0x00 0x00 0xFD 0xB0 0x0202 5 [(0x0010, 0xFF)] = true := by decide

theorem test_inx_VK16 :
    ends (start 0x00 0xFF 0x00 0xFD 0x30 0x0200 [(0x0200, 0xE8)])
      0x00 0x00 0x00 0xFD 0x32 0x0201 2 [] = true := by decide

theorem test_inx_VK17 :
    ends (start 0x00 0x7F 0x00 0xFD 0x30 0x0200 [(0x0200, 0xE8)])
      0x00 0x80 0x00 0xFD 0xB0 0x0201 2 [] = true := by decide

theorem test_iny_VK18 :
    ends (start 0x00 0x00 0xFF 0xFD 0x31 0x0200 [(0x0200, 0xC8)])
      0x00 0x00 0x00 0xFD 0x33 0x0201 2 [] = true := by decide

theorem test_dex_VK19 :
    ends (start 0x00 0x00 0x00 0xFD 0x30 0x0200 [(0x0200, 0xCA)])
      0x00 0xFF 0x00 0xFD 0xB0 0x0201 2 [] = true := by decide

theorem test_dex_VK20 :
    ends (start 0x00 0x01 0x00 0xFD 0x30 0x0200 [(0x0200, 0xCA)])
      0x00 0x00 0x00 0xFD 0x32 0x0201 2 [] = true := by decide

theorem test_dey_VK21 :
    ends (start 0x00 0x00 0x00 0xFD 0x30 0x0200 [(0x0200, 0x88)])
      0x00 0x00 0xFF 0xFD 0xB0 0x0201 2 [] = true := by decide

theorem test_dey_VK22 :
    ends (start 0x00 0x00 0x80 0xFD 0x30 0x0200 [(0x0200, 0x88)])
      0x00 0x00 0x7F 0xFD 0x30 0x0201 2 [] = true := by decide

theorem test_bcc_VB1 :
    ends (start 0x00 0x00 0x00 0xFD 0x30 0x0200 [(0x0200, 0x90), (0x0201, 0x02)])
      0x00 0x00 0x00 0xFD 0x30 0x0204 3 [] = true := by decide

theorem test_bcc_VB2 :
    ends (start 0x00 0x00 0x00 0xFD 0x31 0x0200 [(0x0200, 0x90), (0x0201, 0x02)])
      0x00 0x00 0x00 0xFD 0x31 0x0202 2 [] = true := by decide

theorem test_bcs_VB3 :
    ends (start 0x00 0x00 0x00 0xFD 0x31 0x0200 [(0x0200, 0xB0), (0x0201, 0x7F)])
      0x00 0x00 0x00 0xFD 0x31 0x0281 3 [] = true := by decide

theorem test_beq_VB4 :
    ends (start 0x00 0x00 0x00 0xFD 0x32 0x0300 [(0x0300, 0xF0), (0x0301, 0xFD)])
      0x00 0x00 0x00 0xFD 0x32 0x02FF 4 [] = true := by decide

theorem test_beq_VB5 :
    ends (start 0x00 0x00 0x00 0xFD 0x30 0x0300 [(0x0300, 0xF0), (0x0301, 0xFD)])
      0x00 0x00 0x00 0xFD 0x30 0x0302 2 [] = true := by decide

theorem test_bne_VM25 :
    ends (start 0x00 0x00 0x00 0xFD 0x30 0x0300 [(0x0300, 0xD0), (0x0301, 0xFD)])
      0x00 0x00 0x00 0xFD 0x30 0x02FF 4 [] = true := by decide

theorem test_bne_VM26 :
    ends (start 0x00 0x00 0x00 0xFD 0x30 0xFFF0 [(0xFFF0, 0xD0), (0xFFF1, 0x7F)])
      0x00 0x00 0x00 0xFD 0x30 0x0071 4 [] = true := by decide

theorem test_bmi_VB6 :
    ends (start 0x00 0x00 0x00 0xFD 0xB0 0x0280 [(0x0280, 0x30), (0x0281, 0x80)])
      0x00 0x00 0x00 0xFD 0xB0 0x0202 3 [] = true := by decide

theorem test_bpl_VB7 :
    ends (start 0x00 0x00 0x00 0xFD 0x30 0x0200 [(0x0200, 0x10), (0x0201, 0xFE)])
      0x00 0x00 0x00 0xFD 0x30 0x0200 3 [] = true := by decide

theorem test_bvc_VB8 :
    ends (start 0x00 0x00 0x00 0xFD 0x30 0x0200 [(0x0200, 0x50), (0x0201, 0x00)])
      0x00 0x00 0x00 0xFD 0x30 0x0202 3 [] = true := by decide

theorem test_bvs_VB9 :
    ends (start 0x00 0x00 0x00 0xFD 0x30 0x0200 [(0x0200, 0x70), (0x0201, 0x10)])
      0x00 0x00 0x00 0xFD 0x30 0x0202 2 [] = true := by decide

theorem test_bvs_VB11 :
    ends (start 0x00 0x00 0x00 0xFD 0x70 0x02F0 [(0x02F0, 0x70), (0x02F1, 0x0D)])
      0x00 0x00 0x00 0xFD 0x70 0x02FF 3 [] = true := by decide

theorem test_jmp_VM13 :
    ends (start 0x00 0x00 0x00 0xFD 0x30 0x0200 [(0x0200, 0x6C), (0x0201, 0xFF), (0x0202, 0x10), (0x1000, 0x12), (0x10FF, 0x34), (0x1100, 0x56)])
      0x00 0x00 0x00 0xFD 0x30 0x1234 5 [] = true := by decide

theorem test_jmp_VM15 :
    ends (start 0x00 0x00 0x00 0xFD 0x30 0x0200 [(0x0200, 0x6C), (0x0201, 0x80), (0x0202, 0x10), (0x1080, 0x78), (0x1081, 0x56)])
      0x00 0x00 0x00 0xFD 0x30 0x5678 5 [] = true := by decide

theorem test_jsr_VJ3 :
    ends (start 0x00 0x00 0x00 0xFD 0x30 0x0200 [(0x0200, 0x20), (0x0201, 0x00), (0x0202, 0x03)])
      0x00 0x00 0x00 0xFB 0x30 0x0300 6 [(0x01FD, 0x02), (0x01FC, 0x02)] = true := by decide

theorem test_jsr_VJ4 :
    ends (start 0x00 0x00 0x00 0x00 0x30 0x0200 [(0x0200, 0x20), (0x0201, 0x34), (0x0202, 0x12)])
      0x00 0x00 0x00 0xFE 0x30 0x1234 6 [(0x0100, 0x02), (0x01FF, 0x02)] = true := by decide

theorem test_rts_VJ5 :
    ends (start 0x00 0x00 0x00 0xFB 0x30 0x0300 [(0x0300, 0x60), (0x01FC, 0x02), (0x01FD, 0x02)])
      0x00 0x00 0x00 0xFD 0x30 0x0203 6 [] = true := by decide

theorem test_rts_VJ6 :
    ends (start 0x00 0x00 0x00 0xFE 0x30 0x0300 [(0x0300, 0x60), (0x0100, 0xFF), (0x01FF, 0xFF)])
      0x00 0x00 0x00 0x00 0x30 0x0000 6 [] = true := by decide

theorem test_rti_VJ7 :
    ends (start 0x00 0x00 0x00 0xFA 0x30 0x0300 [(0x0300, 0x40), (0x01FB, 0xC3), (0x01FC, 0x34), (0x01FD, 0x12)])
      0x00 0x00 0x00 0xFD 0xF3 0x1234 6 [] = true := by decide

theorem test_rti_VJ8 :
    ends (start 0x00 0x00 0x00 0xFA 0x30 0x0300 [(0x0300, 0x40), (0x01FB, 0x00), (0x01FC, 0x34), (0x01FD, 0x12)])
      0x00 0x00 0x00 0xFD 0x30 0x1234 6 [] = true := by decide

theorem test_brk_VJ9 :
    ends (start 0x00 0x00 0x00 0xFD 0x30 0x0200 [(0x0200, 0x00), (0xFFFE, 0x00), (0xFFFF, 0x80)])
      0x00 0x00 0x00 0xFA 0x34 0x8000 7 [(0x01FD, 0x02), (0x01FC, 0x02), (0x01FB, 0x30)] = true := by decide

theorem test_brk_VJ11 :
    ends (start 0x00 0x00 0x00 0xFD 0x30 0xFFFF [(0xFFFF, 0x00), (0xFFFE, 0x00)])
      0x00 0x00 0x00 0xFA 0x34 0x0000 7 [(0x01FD, 0x00), (0x01FC, 0x01), (0x01FB, 0x30)] = true := by decide

theorem test_clc_VF1 :
    ends (start 0x00 0x00 0x00 0xFD 0x31 0x0200 [(0x0200, 0x18)])
      0x00 0x00 0x00 0xFD 0x30 0x0201 2 [] = true := by decide

theorem test_clc_VF8 :
    ends (start 0x00 0x00 0x00 0xFD 0xFF 0x0200 [(0x0200, 0x18)])
      0x00 0x00 0x00 0xFD 0xFE 0x0201 2 [] = true := by decide

theorem test_sec_VF2 :
    ends (start 0x00 0x00 0x00 0xFD 0x30 0x0200 [(0x0200, 0x38)])
      0x00 0x00 0x00 0xFD 0x31 0x0201 2 [] = true := by decide

theorem test_cld_VF3 :
    ends (start 0x00 0x00 0x00 0xFD 0x38 0x0200 [(0x0200, 0xD8)])
      0x00 0x00 0x00 0xFD 0x30 0x0201 2 [] = true := by decide

theorem test_sed_VF4 :
    ends (start 0x00 0x00 0x00 0xFD 0x30 0x0200 [(0x0200, 0xF8)])
      0x00 0x00 0x00 0xFD 0x38 0x0201 2 [] = true := by decide

theorem test_cli_VF5 :
    ends (start 0x00 0x00 0x00 0xFD 0x34 0x0200 [(0x0200, 0x58)])
      0x00 0x00 0x00 0xFD 0x30 0x0201 2 [] = true := by decide

theorem test_sei_VF6 :
    ends (start 0x00 0x00 0x00 0xFD 0x30 0x0200 [(0x0200, 0x78)])
      0x00 0x00 0x00 0xFD 0x34 0x0201 2 [] = true := by decide

theorem test_clv_VF7 :
    ends (start 0x00 0x00 0x00 0xFD 0x70 0x0200 [(0x0200, 0xB8)])
      0x00 0x00 0x00 0xFD 0x30 0x0201 2 [] = true := by decide

theorem test_pha_VF9 :
    ends (start 0x5A 0x00 0x00 0xFD 0x30 0x0200 [(0x0200, 0x48)])
      0x5A 0x00 0x00 0xFC 0x30 0x0201 3 [(0x01FD, 0x5A)] = true := by decide

theorem test_pha_VF10 :
    ends (start 0x5A 0x00 0x00 0x00 0x30 0x0200 [(0x0200, 0x48)])
      0x5A 0x00 0x00 0xFF 0x30 0x0201 3 [(0x0100, 0x5A)] = true := by decide

theorem test_php_VF11 :
    ends (start 0x00 0x00 0x00 0xFD 0xB1 0x0200 [(0x0200, 0x08)])
      0x00 0x00 0x00 0xFC 0xB1 0x0201 3 [(0x01FD, 0xB1)] = true := by decide

theorem test_php_VF12 :
    ends (start 0x00 0x00 0x00 0xFD 0x30 0x0200 [(0x0200, 0x08)])
      0x00 0x00 0x00 0xFC 0x30 0x0201 3 [(0x01FD, 0x30)] = true := by decide

theorem test_pla_VF13 :
    ends (start 0x11 0x00 0x00 0xFC 0x30 0x0200 [(0x0200, 0x68), (0x01FD, 0x00)])
      0x00 0x00 0x00 0xFD 0x32 0x0201 4 [] = true := by decide

theorem test_pla_VF14 :
    ends (start 0x00 0x00 0x00 0xFF 0x30 0x0200 [(0x0200, 0x68), (0x0100, 0x80)])
      0x80 0x00 0x00 0x00 0xB0 0x0201 4 [] = true := by decide

theorem test_plp_VF15 :
    ends (start 0x00 0x00 0x00 0xFC 0xF3 0x0200 [(0x0200, 0x28), (0x01FD, 0x00)])
      0x00 0x00 0x00 0xFD 0x30 0x0201 4 [] = true := by decide

theorem test_plp_VF17 :
    ends (start 0x00 0x00 0x00 0xFC 0x30 0x0200 [(0x0200, 0x28), (0x01FD, 0xCF)])
      0x00 0x00 0x00 0xFD 0xFF 0x0201 4 [] = true := by decide

theorem test_nop_VM2 :
    ends (start 0x00 0x00 0x00 0xFD 0x30 0x0200 [(0x0200, 0xEA)])
      0x00 0x00 0x00 0xFD 0x30 0x0201 2 [] = true := by decide

theorem test_nop_VF18 :
    ends (start 0x00 0x00 0x00 0xFD 0x30 0x0200 [(0x0200, 0xEA)])
      0x00 0x00 0x00 0xFD 0x30 0x0201 2 [] = true := by decide

theorem test_illegal_VF19 :
    ends (start 0x01 0x02 0x03 0xFD 0xF1 0x0200 [(0x0200, 0x02), (0x0201, 0xFF), (0x0202, 0xFF)])
      0x01 0x02 0x03 0xFD 0xF1 0x0201 0 [] = true := by decide

theorem test_illegal_VF21 :
    ends (start 0x00 0x00 0x00 0xFD 0x30 0x0200 [(0x0200, 0x80), (0x0201, 0x10)])
      0x00 0x00 0x00 0xFD 0x30 0x0201 0 [] = true := by decide

/-! ### Interrupts (the VI vectors) -/

/-- The common start of the VI vectors: NOPs at `$0200`, the NMI handler INY, RTI at `$8000`, the IRQ handler INX, RTI at
`$9000`; the given status, stack pointer and first byte; and the environment's moves before the step. -/
def vi (p sp first : Byte) (moves : List Move) : State :=
  let s := start 0x00 0x00 0x00 sp p 0x0200
    [(0x0200, first), (0x0201, 0xEA), (0x0202, 0xEA), (0xFFFB, 0x80), (0x8000, 0xC8), (0x8001, 0x40), (0xFFFF, 0x90),
      (0x9000, 0xE8), (0x9001, 0x40)]
  { s with inputs := { s.inputs with moves := [moves] } }

/-- The end state of one step, or the state itself where the step stops. -/
def stepped (s : State) : State :=
  match step s with
  | .next t => t
  | _ => s

theorem test_irq_VI1 :
    ends (vi 0x30 0xFD 0xEA [.irqLine true]) 0x00 0x01 0x00 0xFA 0x34 0x9001 9
      [(0x01FD, 0x02), (0x01FC, 0x00), (0x01FB, 0x20)] = true ∧
    (stepped (vi 0x30 0xFD 0xEA [.irqLine true])).bus.events.reverse =
      [.write 0x01FD 0x02, .write 0x01FC 0x00, .write 0x01FB 0x20, .read 0xFFFE 0x00, .read 0xFFFF 0x90, .read 0x9000 0xE8] := by
  decide

theorem test_irq_masked_VI2 :
    ends (vi 0x34 0xFD 0xEA [.irqLine true]) 0x00 0x00 0x00 0xFD 0x34 0x0201 2 [] = true := by decide

theorem test_nmi_VI3 :
    ends (vi 0x34 0xFD 0xEA [.nmiLine true]) 0x00 0x00 0x01 0xFA 0x34 0x8001 9
      [(0x01FD, 0x02), (0x01FC, 0x00), (0x01FB, 0x24)] = true ∧
    (stepped (vi 0x34 0xFD 0xEA [.nmiLine true])).regs.nmiState = .inService := by decide

theorem test_nmi_pushes_wrap_VI4 :
    ends (vi 0xFF 0x01 0xEA [.nmiLine true]) 0x00 0x00 0x01 0xFE 0x7D 0x8001 9
      [(0x0101, 0x02), (0x0100, 0x00), (0x01FF, 0xEF)] = true := by decide

theorem test_nmi_wins_VI6 :
    ends (vi 0x30 0xFD 0xEA [.nmiLine true, .irqLine true]) 0x00 0x00 0x01 0xFA 0x34 0x8001 9
      [(0x01FD, 0x02), (0x01FC, 0x00), (0x01FB, 0x20)] = true := by decide

theorem test_nmi_pulse_is_latched_VI10 :
    (stepped (vi 0x30 0xFD 0xEA [.nmiLine true, .nmiLine false])).regs.pc = 0x8001 := by decide

theorem test_irq_pulse_is_not_latched_VI11 :
    ends (vi 0x30 0xFD 0xEA [.irqLine true, .irqLine false]) 0x00 0x00 0x00 0xFD 0x30 0x0201 2 [] = true := by decide

/-- VI8, step 2: an edge while the NMI is in service is dropped, and RTI arms the sequencer. -/
theorem test_nmi_edge_in_service_is_dropped_VI8 :
    (stepped ((vi 0x34 0xFD 0x40 [.nmiLine false, .nmiLine true]).setNmiState .inService)).regs.nmiState = .armed := by decide

/-- VI16: the IRQ is serviced before SEI is fetched, and its return address is the SEI itself. -/
theorem test_irq_before_sei_VI16 :
    ends (vi 0x30 0xFD 0x78 [.irqLine true]) 0x00 0x01 0x00 0xFA 0x34 0x9001 9
      [(0x01FD, 0x02), (0x01FC, 0x00), (0x01FB, 0x20)] = true := by decide

/-- VI14: the detector is not gated by HALT, and the reset loses the pending NMI. -/
theorem test_nmi_while_halted_VI14 :
    (stepped ((vi 0x30 0xFD 0x02 [.nmiLine true]).setHalt true)).regs =
      { ((vi 0x30 0xFD 0x02 []).setHalt true).regs with nmiState := .pending, nmiPrev := true } ∧
    (((vi 0x30 0xFD 0x02 []).setHalt true).nmiLine true).resetSequence.regs.nmiState = .armed ∧
    (((vi 0x30 0xFD 0x02 []).setHalt true).nmiLine true).resetSequence.regs.nmiPrev = true := by decide

/-! ### Reset, power, the driver -/

/-- VR2c, VR3, VR4: the parameters, the forced bits of P, and the low byte of PC from the lower address. -/
theorem test_reset_VR :
    let s := start 0x99 0x98 0x97 0x10 0xFF 0x1234 [(0xFFFC, 0xCD), (0xFFFD, 0xAB)]
    let t := State.resetSequence
      { s with cfg := { s.cfg with resetA := 0x12, resetX := 0x34, resetY := 0x56, resetP := 0xCF } }
    t.regs.a = 0x12 ∧ t.regs.x = 0x34 ∧ t.regs.y = 0x56 ∧ t.regs.sp = 0xFD ∧ t.regs.p = 0xFF ∧ t.regs.pc = 0xABCD ∧
      t.bus.events.reverse = [.read 0xFFFC 0xCD, .read 0xFFFD 0xAB] := by decide

/-- VD13: with the power-off input asserted a step changes nothing. -/
theorem test_power_off_VD13 :
    let s := (start 0x00 0x00 0x00 0xFD 0x30 0x0200 [(0x0200, 0xA9), (0x0201, 0x05)]).powerOffLine true
    stepped s = s ∧ s.alive = false ∧ (stepped (s.powerOffLine false)).regs.a = 0x05 := by decide

/-- The driver's program: LDA #5, ADC #3 and a last byte. -/
def program (last : Byte) : State :=
  start 0x00 0x00 0x00 0xFD 0x30 0x0200 [(0x0200, 0xA9), (0x0201, 0x05), (0x0202, 0x69), (0x0203, 0x03), (0x0204, last)]

/-- What a run ends in: A, PC, CYC, the latch, and the budget left. -/
def runEnds (r : Host.Outcome (State × Int) Fault Refusal) (a : Byte) (pc : Word) (cyc : Cycles) (halt : Bool) (left : Int) :
    Bool :=
  match r with
  | .next (t, l) => t.regs.a == a && t.regs.pc == pc && t.regs.cyc == cyc && t.regs.halt == halt && l == left
  | _ => false

theorem test_run_overshoots_VD3 : runEnds (runDriver .cycleCount 3 (program 0x00)) 0x08 0x0204 4 false (-1) = true := by
  decide

theorem test_run_counts_instructions_VD8 :
    runEnds (runDriver .instructionCount 2 (program 0x00)) 0x08 0x0204 4 false 0 = true := by decide

theorem test_run_ends_at_illegal_VD12 :
    runEnds (runDriver .cycleCount 1000 (program 0x02)) 0x08 0x0205 4 true 996 = true := by decide

/-- R237, R239: the illegal-opcode step ends `RunEternally` at once; a reset listed for the boundary after it is not made. -/
theorem test_runEternally_ends_at_illegal_VD12 :
    let s := program 0x02
    let t := match runEternally 1000 { s with inputs := { s.inputs with moves := [[], [], [], [.reset]] } } with
      | .next t => t
      | _ => s
    t.regs.a = 0x08 ∧ t.regs.pc = 0x0205 ∧ t.regs.cyc = 4 ∧ t.regs.halt = true ∧ t.inputs.moves = [[.reset]] := by decide

/-- Right after reset `step` runs exactly the instruction placed by `withFetchWord`. -/
theorem test_withFetchWord :
    (stepped (State.reset.withFetchWord 16 0x80A9)).regs.a = 0x80 ∧
    (stepped (State.reset.withFetchWord 24 0x12344C)).regs.pc = 0x1234 ∧
    (stepped (State.reset.withFetchWord 8 0x38)).regs.p = 0x31 := by decide

/-- Memory keeps its canonical form: writing what an unlisted address reads as removes the entry. -/
theorem test_memory_canonical :
    ((Memory.write [] 0x1234 0x07).write 0x0000 0x01).write 0x1234 0x00 = [(0, 0x01)] := by decide

/-! ### Witnesses: the hypotheses of the statements are met -/

/-- A platform with a device at `$4000`, which has two answers queued, and read-only memory from `$F000` up. -/
def zoned : State :=
  let s := start 0x10 0xFF 0x02 0x01 0x3C 0xFFFF [(0x01FF, 0x80), (0xFFFA, 0x34), (0xFFFB, 0x12), (0xFFFF, 0x02)]
  { s with
    bus := { s.bus with
      regions := [{ base := 0x4000, size := 0x10, kind := .external }, { base := 0xF000, size := 0x1000, kind := .rom }]
      answers := [0x11, 0x22] } }

/-- The state an instruction leads to, or the state itself where it stops. -/
def after (i : Instr) (s : State) : State :=
  match exec i s with
  | .next t => t
  | _ => s

theorem witness_DecodeOfEncode :
    (Instr.jmp (.abi 0xFFFF)).wf = true ∧ (Instr.bvs (.rel 0x80)).wf = true ∧ (Instr.asl .acc).wf = true ∧
      (Instr.illegal 0xFF).wf = true ∧ Instr.brk.wf = true := by decide

theorem witness_EncodeOfDecode :
    decode [0x6C, 0xFF, 0xFF, 0x02] = .ok (.jmp (.abi 0xFFFF), [0x02]) ∧ decode [0xFF] = .ok (.illegal 0xFF, []) :=
  ⟨rfl, rfl⟩

/-- With no, one and two operand bytes. -/
theorem witness_StepRunsTheDecodedInstruction :
    let meets (s₀ : State) (i : Instr) (rest : List Byte) : Prop :=
      let s := s₀.boundary
      let f₀ := s.sampleInterrupts.fetch
      let f₁ := (f₀.2.setIR f₀.1).fetch
      let f₂ := f₁.2.fetch
      s.cfg.undocumentedOpcodes = false ∧ s.alive = true ∧ decode [f₀.1, f₁.1, f₂.1] = .ok (i, rest)
    meets (vi 0x30 0xFD 0xEA []) .nop [0xEA, 0xEA] ∧ meets (vi 0x30 0xFD 0xA9 []) (.lda (.imm 0xEA)) [0xEA] ∧
      meets (vi 0x30 0xFD 0x4C []) (.jmp (.abs 0xEAEA)) [] :=
  ⟨⟨rfl, rfl, rfl⟩, ⟨rfl, rfl, rfl⟩, ⟨rfl, rfl, rfl⟩⟩

theorem witness_FetchReadsTheByteAtPC :
    zoned.regs.pc = 0xFFFF ∧ zoned.bus.kindAt zoned.regs.pc ≠ some .external := by decide

theorem witness_StoreIsSeenByTheNextFetch :
    let s := zoned.setPC 0x1300
    s.bus.mem.wf = true ∧ s.bus.kindAt s.regs.pc = none ∧ (s.evaluate (.abx 0x1201)).1 = s.regs.pc := by decide

/-- A halted core, one that is powered off, and one at an official and at an illegal opcode. -/
theorem witness_ThreeOutcomesOfAStep :
    (let s := zoned.setHalt true; s.cfg.undocumentedOpcodes = false ∧ (s.regs.halt = true ∨ s.inputs.powerOff = true)) ∧
    (let s := zoned.powerOffLine true
     s.cfg.undocumentedOpcodes = false ∧ (s.regs.halt = true ∨ s.inputs.powerOff = true)) ∧
    (zoned.cfg.undocumentedOpcodes = false ∧ zoned.regs.halt = false ∧ zoned.inputs.powerOff = false ∧
      (descriptor (stepped zoned).regs.ir).mnemonic = .illegal) ∧
    (let s := zoned.setPC 0x0000
     s.cfg.undocumentedOpcodes = false ∧ s.regs.halt = false ∧ s.inputs.powerOff = false ∧
      (descriptor (stepped s).regs.ir).mnemonic ≠ .illegal) := by decide

theorem witness_NoRunStops :
    zoned.cfg.undocumentedOpcodes = false ∧
      ({ zoned with cfg := { zoned.cfg with undocumentedOpcodes := true } } : State).cfg.undocumentedOpcodes = true := by decide

theorem witness_IllegalOpcodeLatch :
    (exec (.illegal 0x02) zoned = .next (after (.illegal 0x02) zoned)) ∧ (exec .nop zoned = .next (after .nop zoned)) ∧
      (zoned.setHalt true).regs.halt = true ∧ stepOnce (zoned.setHalt true) = .next (zoned.setHalt true) :=
  ⟨rfl, rfl, rfl, rfl⟩

/-- A step with a service, a plain one, and one at an illegal opcode. -/
theorem witness_StepAddsCyclesByTheFormula :
    (∃ t, (vi 0x30 0xFD 0xEA []).alive = true ∧ stepOnce ((vi 0x30 0xFD 0xEA []).irqLine true) = .next t ∧
      ((vi 0x30 0xFD 0xEA []).irqLine true).services = true ∧ (descriptor t.regs.ir).mnemonic ≠ .illegal) ∧
    (∃ t, stepOnce (vi 0x30 0xFD 0xEA []) = .next t ∧ (vi 0x30 0xFD 0xEA []).services = false ∧
      (descriptor t.regs.ir).mnemonic ≠ .illegal) ∧
    (∃ t, zoned.alive = true ∧ stepOnce zoned = .next t ∧ (descriptor t.regs.ir).mnemonic = .illegal) ∧
    (descriptor 0x02).mnemonic = .illegal :=
  ⟨⟨_, by decide, rfl, by decide, by decide⟩, ⟨_, rfl, by decide, by decide⟩, ⟨_, by decide, rfl, by decide⟩, by decide⟩

theorem witness_CyclesNeverFeedBack : ∃ t, stepOnce (vi 0x30 0xFD 0xEA []) = .next t := ⟨_, rfl⟩

theorem witness_StepKeepsTheInvariant : (vi 0x30 0xFD 0xEA [.irqLine true]).Inv ∧ zoned.Inv ∧
    ∃ t, step (vi 0x30 0xFD 0xEA [.irqLine true]) = .next t :=
  ⟨⟨by decide, by decide, by decide, by decide⟩, ⟨by decide, by decide, by decide, by decide⟩, ⟨_, rfl⟩⟩

/-- Both pointer forms at the end of page 0: the low byte at `$00FF` is 0x00, the high byte at `$0000` is 0x21. -/
theorem witness_ZeroPagePointersStayInPageZero :
    let s := start 0x00 0x01 0x02 0xFD 0x30 0x0200 [(0x0000, 0x21), (0x0100, 0x99)]
    s.bus.answersTo [BitVec.ofNat 16 ((0xFE + s.regs.x.toNat) % 256), BitVec.ofNat 16 (((0xFE + s.regs.x.toNat) % 256 + 1) % 256)]
      = [0x00, 0x21] ∧
    s.bus.answersTo [BitVec.ofNat 16 0xFF, BitVec.ofNat 16 ((0xFF + 1) % 256)] = [0x00, 0x21] := by decide

/-- The pointer `$10FF` without the fix, its high byte from `$1000`, and with it, from `$1100`. -/
theorem witness_JumpAbsoluteAndIndirect :
    let s := start 0x00 0x00 0x00 0xFD 0x30 0x0200 [(0x1000, 0x12), (0x10FF, 0x34), (0x1100, 0x56)]
    (s.cfg.cmosJmpFix = false ∧ s.bus.answersTo [0x10FF, 0x1000] = [0x34, 0x12]) ∧
    (let f : State := { s with cfg := { s.cfg with cmosJmpFix := true } }
     f.cfg.cmosJmpFix = true ∧ f.bus.answersTo [0x10FF, 0x1100] = [0x34, 0x56]) := by decide

theorem witness_BusAccesses :
    zoned.bus.mem.wf = true ∧ zoned.bus.kindAt 0x0000 = none ∧ zoned.bus.kindAt 0x400F = some .external ∧
      zoned.bus.kindAt 0x4010 = none ∧ zoned.bus.answers = 0x11 :: [0x22] ∧ zoned.bus.kindAt 0xFFFF ≠ none ∧
      zoned.bus.kindAt 0xFFFF ≠ some .external := by decide

/-! Operands are taken at the ends of their range. -/

theorem witness_LoadsCopyTheByteAndSetNZ :
    (Instr.lda (.imm 0x00)).wf = true ∧ (Instr.lda (.inx 0xFF)).wf = true ∧ (Instr.ldx (.zey 0xFF)).wf = true ∧
      (Instr.ldy (.abx 0xFFFF)).wf = true := by decide

theorem witness_StoresWriteTheRegister :
    zoned.bus.mem.wf = true ∧ (Instr.sta (.iny 0xFF)).wf = true ∧ (Instr.stx (.zey 0xFF)).wf = true ∧
      (Instr.sty (.abs 0xFFFF)).wf = true := by decide

theorem witness_ComparesSetCarryNegativeZero :
    (Instr.cmp (.inx 0xFF)).wf = true ∧ (Instr.cpx (.imm 0xFF)).wf = true ∧ (Instr.cpy (.abs 0x0000)).wf = true := by decide

theorem witness_IncrementAndDecrementMemory :
    zoned.bus.mem.wf = true ∧ (Instr.inc (.zex 0xFF)).wf = true ∧ (Instr.dec (.abx 0xFFFF)).wf = true := by decide

theorem witness_LogicalOperationsIntoA :
    (Instr.and (.aby 0xFFFF)).wf = true ∧ (Instr.eor (.zer 0x00)).wf = true ∧ (Instr.ora (.imm 0xFF)).wf = true := by decide

theorem witness_ShiftsOfMemory :
    zoned.bus.mem.wf = true ∧ Operand.abx 0xFFFF ≠ .acc ∧ (Instr.asl (.abx 0xFFFF)).wf = true ∧
      (Instr.lsr (.abx 0xFFFF)).wf = true ∧ (Instr.rol (.abx 0xFFFF)).wf = true ∧ (Instr.ror (.abx 0xFFFF)).wf = true := by
  decide

theorem witness_BitTestsMemoryAgainstA : (Instr.bit (.abs 0xFFFF)).wf = true ∧ (Instr.bit (.zer 0x00)).wf = true := by decide

theorem witness_AdcBinaryAddsWithCarry :
    (Instr.adc (.iny 0xFF)).wf = true ∧ (zoned.setP 0xF7).flag flagD = false := by decide

/-- Valid BCD operands 99 and 01 in decimal mode. -/
theorem witness_AdcDecimalAddsBcd :
    (Instr.adc (.imm 0x01)).wf = true ∧ (zoned.setA 0x99).flag flagD = true ∧ validBcd (zoned.setA 0x99).regs.a = true ∧
      validBcd ((zoned.setA 0x99).operandByte (.imm 0x01)) = true ∧ validBcd (zoned.setA 0x0F).regs.a = false := by decide

theorem witness_SbcBinarySubtractsWithBorrow :
    (Instr.sbc (.inx 0xFF)).wf = true ∧ (zoned.setP 0x30).flag flagD = false := by decide

/-- Valid BCD operands 00 and 99 in decimal mode. -/
theorem witness_SbcDecimalSubtractsBcd :
    (Instr.sbc (.imm 0x99)).wf = true ∧ (zoned.setA 0x00).flag flagD = true ∧ validBcd (zoned.setA 0x00).regs.a = true ∧
      validBcd ((zoned.setA 0x00).operandByte (.imm 0x99)) = true ∧ validBcd (zoned.setA 0x9A).regs.a = false := by decide

theorem witness_OnlyAdcAndSbcReadD :
    (Instr.cmp (.imm 0x10)).mnemonic ∉ [.adc, .sbc, .php, .brk, .cld, .sed, .plp, .rti] ∧
      ∃ t, exec (.cmp (.imm 0x10)) zoned = .next t :=
  ⟨by decide, ⟨_, rfl⟩⟩

/-- Taken and not taken; and around the page boundary: from the next instruction at `$02FF` an offset of 0 stays on the page and
one of 1 leaves it, from `$0000` an offset of -1 wraps to `$FFFF`. -/
theorem witness_BranchesTakenAndNotTaken :
    branchTaken .bne 0x30 = true ∧ branchTaken .bne 0x32 = false ∧ branchTaken .bvs 0x70 = true ∧
      branchTaken .bcc 0x31 = false ∧
      Instr.bvs (.rel 0x80) ∈ [Instr.bcc (.rel 0x80), .bcs (.rel 0x80), .beq (.rel 0x80), .bne (.rel 0x80), .bmi (.rel 0x80),
        .bpl (.rel 0x80), .bvc (.rel 0x80), .bvs (.rel 0x80)] ∧
      (after (.bne (.rel 0x00)) (start 0x00 0x00 0x00 0xFD 0x30 0x02FF [])).regs.cyc = 1 ∧
      (after (.bne (.rel 0x01)) (start 0x00 0x00 0x00 0xFD 0x30 0x02FF [])).regs.cyc = 2 ∧
      (after (.bne (.rel 0xFF)) (start 0x00 0x00 0x00 0xFD 0x30 0x0000 [])).regs.pc = 0xFFFF ∧
      (after (.bne (.rel 0x01)) (start 0x00 0x00 0x00 0xFD 0x32 0x02FF [])).regs.cyc = 0 := by decide

theorem witness_JsrPushesTheReturnAddress : (zoned.setSP 0x00).bus.mem.wf = true ∧ (zoned.setPC 0x0000).bus.mem.wf = true := by
  decide

/-- The stack slots wrap in page 1: with SP = 0xFE the bytes are pulled at `$01FF` and `$0100`. -/
theorem witness_RtsReturnsPastThePulledAddress :
    (zoned.setSP 0xFE).bus.answersTo [stackSlot (0xFE + 1), stackSlot (0xFE + 2)] = [0x80, 0x00] := by decide

theorem witness_RtiRestoresStatusAndPC :
    let s := (zoned.setSP 0xFE).setNmiState .inService
    s.bus.answersTo [stackSlot (0xFE + 1), stackSlot (0xFE + 2), stackSlot (0xFE + 3)] = [0x80, 0x00, 0x00] ∧
      s.regs.nmiState = .inService ∧ zoned.regs.nmiState ≠ .inService := by decide

theorem witness_BrkTakesTheSoftwareInterrupt :
    zoned.bus.mem.wf = true ∧ zoned.bus.answersTo [0xFFFE, 0xFFFF] = [0x00, 0x02] := by decide

/-! With SP = 0x01 the slots of the round trips wrap in page 1. -/

theorem witness_JsrThenRtsReturns :
    zoned.bus.mem.wf = true ∧ zoned.bus.kindAt (stackSlot zoned.regs.sp) = none ∧
      zoned.bus.kindAt (stackSlot (zoned.regs.sp - 1)) = none ∧ ∃ t, exec (.jsr (.abs 0xFFFF)) zoned = .next t :=
  ⟨by decide, by decide, by decide, ⟨_, rfl⟩⟩

theorem witness_BrkThenRtiReturns :
    zoned.bus.mem.wf = true ∧ zoned.bus.kindAt (stackSlot zoned.regs.sp) = none ∧
      zoned.bus.kindAt (stackSlot (zoned.regs.sp - 1)) = none ∧ zoned.bus.kindAt (stackSlot (zoned.regs.sp - 2)) = none ∧
      ∃ t, exec .brk zoned = .next t :=
  ⟨by decide, by decide, by decide, by decide, ⟨_, rfl⟩⟩

theorem witness_PushesOfAAndP : (zoned.setSP 0x00).bus.mem.wf = true ∧ (zoned.setSP 0x00).regs.sp - 1 = 0xFF := by decide

theorem witness_PushThenPullRestores :
    zoned.bus.mem.wf = true ∧ zoned.bus.kindAt (stackSlot zoned.regs.sp) = none ∧ (∃ t, exec .pha zoned = .next t) ∧
      ∃ t, exec .php zoned = .next t :=
  ⟨by decide, by decide, ⟨_, rfl⟩, ⟨_, rfl⟩⟩

theorem witness_PushedCopyOfStatus : (0xFFFA : Word) = nmiVector ∧ (0xFFFE : Word) = irqVector := by decide

theorem witness_IllegalOpcodeStep :
    zoned.cfg.undocumentedOpcodes = false ∧ zoned.alive = true ∧ zoned.services = false ∧
      illegalBytes.contains (zoned.bus.value zoned.regs.pc) = true := by decide

/-- Instructions that change each register, the NMI state, the latch and CYC. -/
theorem witness_OnlyTheListedInstructionsWriteRegisters :
    (after .txa zoned).regs.a ≠ zoned.regs.a ∧ (after .inx zoned).regs.x ≠ zoned.regs.x ∧
    (after .dey zoned).regs.y ≠ zoned.regs.y ∧ (after .txs zoned).regs.sp ≠ zoned.regs.sp ∧
    (after (.jmp (.abs 0x0000)) zoned).regs.pc ≠ zoned.regs.pc ∧ (after (.bne (.rel 0x10)) zoned).regs.cyc ≠ zoned.regs.cyc ∧
    (after .rti (zoned.setNmiState .inService)).regs.nmiState ≠ .inService ∧
    (after (.illegal 0x02) zoned).regs.halt ≠ zoned.regs.halt ∧ (after (.asl .acc) zoned).regs.a ≠ zoned.regs.a := by decide

/-- Instructions of these witnesses and of the next two answer a next state. -/
theorem witness_next_states :
    exec .txa zoned = .next (after .txa zoned) ∧ exec .inx zoned = .next (after .inx zoned) ∧
      exec .dey zoned = .next (after .dey zoned) ∧ exec .txs zoned = .next (after .txs zoned) ∧
      exec (.bne (.rel 0x10)) zoned = .next (after (.bne (.rel 0x10)) zoned) ∧
      exec (.inc (.zer 0x00)) zoned = .next (after (.inc (.zer 0x00)) zoned) ∧
      exec .pha zoned = .next (after .pha zoned) ∧ exec (.bit (.abs 0x01FF)) zoned = .next (after (.bit (.abs 0x01FF)) zoned) :=
  ⟨rfl, rfl, rfl, rfl, rfl, rfl, rfl, rfl⟩

theorem witness_OnlyTheListedInstructionsWriteFlags :
    (after .dey (zoned.setY 0x01)).flag flagZ ≠ zoned.flag flagZ ∧ (after (.bit (.abs 0x01FF)) zoned).flag flagN ≠ zoned.flag flagN ∧
    (after .clv (zoned.setP 0x70)).flag flagV ≠ (zoned.setP 0x70).flag flagV ∧ (after .cld zoned).flag flagD ≠ zoned.flag flagD ∧
    (after .cli zoned).flag flagI ≠ zoned.flag flagI ∧ (after .sec zoned).flag flagC ≠ zoned.flag flagC ∧
    getFlag 5 zoned.regs.p = true := by decide

theorem witness_OnlyTheListedInstructionsWriteMemory :
    zoned.bus.mem.wf = true ∧
    (after (.inc (.zer 0x00)) zoned).bus.mem.read (0x0000 : Word).toNat ≠ zoned.bus.mem.read (0x0000 : Word).toNat ∧
    (after .pha zoned).bus.mem.read (0x0101 : Word).toNat ≠ zoned.bus.mem.read (0x0101 : Word).toNat ∧
    (after (.asl (.abs 0x01FF)) zoned).bus.mem.read (0x01FF : Word).toNat ≠ zoned.bus.mem.read (0x01FF : Word).toNat := by decide

/-- Both vectors. -/
theorem witness_InterruptServiceSequence :
    zoned.bus.mem.wf = true ∧ zoned.bus.answersTo [nmiVector, nmiVector + 1] = [0x34, 0x12] ∧
      zoned.bus.answersTo [irqVector, irqVector + 1] = [0x00, 0x02] := by decide

theorem witness_NmiWinsOverIrq :
    let s := (vi 0x30 0xFD 0xEA []).nmiLine true
    (s.nmiInput s.inputs.nmi).regs.nmiState = .pending ∧ (s.irqLine true).regs.nmiState = .pending := by decide

/-- An IRQ that is serviced, one that is masked, and an RTI that restores I = 0 with the line still asserted. -/
theorem witness_IrqIsALevelRead :
    let s := (vi 0x30 0xFD 0xEA []).irqLine true
    (s.nmiInput s.inputs.nmi).regs.nmiState ≠ .pending ∧ (s.inputs.irq = true ∧ s.flag flagI = false) ∧
      (let m := s.setP 0x34
       (m.nmiInput m.inputs.nmi).regs.nmiState ≠ .pending ∧ ¬ (m.inputs.irq = true ∧ m.flag flagI = false)) ∧
      exec .rti s = .next (after .rti s) ∧ (after .rti s).flag flagI = false :=
  ⟨by decide, by decide, by decide, rfl, by decide⟩

theorem witness_NmiEdgeDetector :
    zoned.regs.nmiState = .armed ∧ [false, true] <:+: (zoned.regs.nmiPrev :: [false, true, true]) ∧
      (zoned.setNmiState .pending).regs.nmiState ≠ .armed ∧ (zoned.setNmiState .inService).regs.nmiState ≠ .armed := by decide

/-- In service at RTI and at another instruction, with an IRQ to service and without; pending; and armed with the line held
and with the line released. -/
theorem witness_NmiIsNotReenteredBeforeRti :
    let s := vi 0x34 0xFD 0x40 []
    let q := ((vi 0x30 0xFD 0xEA []).irqLine true).setNmiState .inService
    s.alive = true ∧ (∃ t, stepOnce (s.setNmiState .inService) = .next t ∧ (descriptor t.regs.ir).mnemonic = .rti) ∧
      (q.alive = true ∧ q.inputs.irq = true ∧ q.flag flagI = false ∧
        ∃ t, stepOnce q = .next t ∧ (descriptor t.regs.ir).mnemonic ≠ .rti) ∧
      (∃ t, stepOnce (s.setNmiState .pending) = .next t) ∧
      (∃ t, stepOnce s = .next t ∧ s.regs.nmiState = .armed ∧ (s.inputs.nmi = false ∨ s.regs.nmiPrev = true)) ∧
      (∃ t, stepOnce ((s.nmiLine true).setNmiState .armed) = .next t ∧
        ((s.nmiLine true).setNmiState .armed).regs.nmiPrev = true) :=
  ⟨by decide, ⟨_, rfl, by decide⟩, ⟨by decide, by decide, by decide, ⟨_, rfl, by decide⟩⟩, ⟨_, rfl⟩,
    ⟨_, rfl, by decide, by decide⟩, ⟨_, rfl, by decide⟩⟩

theorem witness_ServiceThenRtiResumes :
    let s := zoned.setNmiState .inService
    s.bus.mem.wf = true ∧ s.bus.kindAt (stackSlot s.regs.sp) = none ∧ s.bus.kindAt (stackSlot (s.regs.sp - 1)) = none ∧
      s.bus.kindAt (stackSlot (s.regs.sp - 2)) = none ∧ s.regs.nmiState = .inService := by decide

theorem witness_ResetSequence : zoned.bus.answersTo [0xFFFC, 0xFFFD] = [0x00, 0x00] ∧
    (vi 0x30 0xFD 0xEA []).bus.answersTo [0xFFFC, 0xFFFD] = [0x00, 0x00] := by decide

theorem witness_RunEndsByBudgetOrNotAlive : zoned.cfg.undocumentedOpcodes = false ∧ (0 : Int) < 1 := by decide

end Sys2Proof.Tests
end

section
/-! PROOFS. The illegal-opcode latch HALT (spec 10_state.md R34): one lemma for each operation that a step, a reset or a move
of the environment is made of, and from them the obligation. -/

namespace Sys2Proof.Machine

/-! ### Operations that leave the latch -/

@[simp] theorem State.implied_halt (s : State) : s.implied.regs.halt = s.regs.halt := rfl

@[simp] theorem State.shift_halt (f : Byte → Bool → Byte × Bool) (s : State) (o : Operand) :
    (State.shift f s o).regs.halt = s.regs.halt := by
  by_cases h : o = .acc
  · subst h
    simp [State.shift_acc]
  · simp [State.shift_memory f s h]

@[simp] theorem State.bump_halt (f : Byte → Byte) (s : State) (o : Operand) :
    (State.bump f s o).regs.halt = s.regs.halt := by
  simp [State.bump]

@[simp] theorem State.branchIf_halt (s : State) (taken : Bool) (o : Operand) :
    (s.branchIf taken o).regs.halt = s.regs.halt := by
  cases taken <;> simp [State.branchIf]

@[simp] theorem State.enterInterrupt_halt (s : State) (software : Bool) (vector : Word) :
    (s.enterInterrupt software vector).regs.halt = s.regs.halt := rfl

@[simp] theorem State.service_halt (s : State) (vector : Word) : (s.service vector).regs.halt = s.regs.halt := rfl

@[simp] theorem State.returnFromInterrupt_halt (s : State) : s.returnFromInterrupt.regs.halt = s.regs.halt := by
  unfold State.returnFromInterrupt
  dsimp only
  split <;> rfl

@[simp] theorem State.nmiInput_halt (s : State) (level : Bool) : (s.nmiInput level).regs.halt = s.regs.halt := by
  unfold State.nmiInput
  dsimp only
  split <;> rfl

/-- The start of a step leaves the latch, whichever interrupt it services (R34). -/
@[simp] theorem State.sampleInterrupts_halt (s : State) : s.sampleInterrupts.regs.halt = s.regs.halt := by
  unfold State.sampleInterrupts
  dsimp only
  split
  · simp
  · split <;> simp

/-! ### What sets and clears it -/

/-- ILLEGAL sets the latch and every other instruction leaves it (R34, R226): the handlers with an operand go through the
operations above, and those in mode IMP write other registers by name. -/
theorem exec_halt {i : Instr} {s t : State} (h : exec i s = .next t) :
    t.regs.halt = (s.regs.halt || decide (i.mnemonic = .illegal)) := by
  cases i <;> cases h
  case illegal => exact (Bool.or_true _).symm
  all_goals refine Eq.trans ?_ (Bool.or_false _).symm
  case asl | lsr | rol | ror => exact State.shift_halt _ s _
  case inc | dec => exact State.bump_halt _ s _
  case bcc | bcs | beq | bne | bmi | bpl | bvc | bvs => exact State.branchIf_halt s _ _
  case rti => exact State.returnFromInterrupt_halt s.implied
  case lda | ldx | ldy | adc | sbc | and | eor | ora | bit | cmp | cpx | cpy => simp
  case sta | stx | sty | jmp | jsr => simp
  all_goals rfl

@[simp] theorem State.resetSequence_halt (s : State) : s.resetSequence.regs.halt = false := rfl

/-- Of the environment's moves only reset clears the latch, and none sets it (R34). -/
theorem State.applyMove_halt (s : State) (m : Move) :
    (s.applyMove m).regs.halt = (s.regs.halt && decide (m ≠ .reset)) := by
  cases m with
  | reset => simp [State.applyMove]
  | nmiLine level => simp [State.applyMove, State.nmiLine]
  | irqLine _ | powerOff _ | poke _ _ | answer _ => exact (Bool.and_true _).symm

theorem State.not_alive_of_halt {s : State} (h : s.regs.halt = true) : s.alive = false := by simp [State.alive, h]

/-- Settles O11: the clauses are the lemmas above, and a step of a halted core is the idle one. -/
theorem illegalOpcodeLatch : Obligations.IllegalOpcodeLatch := by
  refine ⟨fun _ _ _ => exec_halt, fun s t hs h => ?_, State.sampleInterrupts_halt, State.resetSequence_halt,
    State.applyMove_halt⟩
  have hdead := State.not_alive_of_halt hs
  obtain ⟨-, ⟨-, rfl⟩ | ⟨halive, -⟩⟩ := stepOnce_cases h
  · exact ⟨rfl, hdead⟩
  · rw [hdead] at halive
    cases halive

end Sys2Proof.Machine
end

section
/-! PROOFS. ADC in binary mode (spec 42_arithmetic.md R142): what reading an operand into A with the four flags leaves
unchanged, then the arithmetic of AdcBinary, and from them the obligation. -/

namespace Sys2Proof.Machine

/-! ### The operand read, and the state ADC and SBC end in (R140) -/

@[simp] theorem State.operandRead_fst (s : State) (o : Operand) : (s.operandRead o).1 = s.operandByte o := by
  cases o <;> rfl

/-- The events after the evaluator's own: one read, and none in mode IMM (R81, R103). -/
theorem State.operandRead_emits (s : State) (o : Operand) :
    Emits (s.evaluate o).2 (s.operandRead o).2 (s.operandReads o) := by
  cases o
  case imm b => rfl
  all_goals exact Bus.afterRead_events _ _

theorem State.operandRead_readsOperandOnly (s : State) (o : Operand) : ReadsOperandOnly o s (s.operandRead o).2 := by
  refine ⟨fun a _ => ?_, ?_, s.operandRead_emits o⟩
  · rw [State.operandRead_mem]
  · simp [SameSurroundings]

/-- The state with the operand read, a result in A and its four flags in P: the common end of ADC and SBC (R140). -/
def State.accumulate (s : State) (o : Operand) (r : AluResult) : State :=
  ((s.operandRead o).2.setA r.r).setP (putNVZC r s.regs.p)

theorem exec_adc (o : Operand) (s : State) :
    exec (.adc o) s =
      .next (s.accumulate o (adcResult (s.flag flagD) s.regs.a (s.operandByte o) (s.flag flagC))) := by
  rw [← State.operandRead_fst]; rfl

section
variable (s : State) (o : Operand) (r : AluResult)

theorem State.accumulate_regs : (s.accumulate o r).regs =
    { s.regs with a := r.r, p := putNVZC r s.regs.p, crossed := s.crossedBy o } := by
  simp only [State.accumulate, State.setP_regs, State.setA_regs, State.operandRead_regs, State.crossedBy]
  rw [State.evaluate_regs]

@[simp] theorem State.accumulate_a : (s.accumulate o r).regs.a = r.r := rfl

@[simp] theorem State.accumulate_flagN : (s.accumulate o r).flag flagN = r.n := by
  simp [State.flag, State.accumulate, putNVZC]
@[simp] theorem State.accumulate_flagV : (s.accumulate o r).flag flagV = r.v := by
  simp [State.flag, State.accumulate, putNVZC]
@[simp] theorem State.accumulate_flagZ : (s.accumulate o r).flag flagZ = r.z := by
  simp [State.flag, State.accumulate, putNVZC]
@[simp] theorem State.accumulate_flagC : (s.accumulate o r).flag flagC = r.c := by
  simp [State.flag, State.accumulate, putNVZC]

theorem State.accumulate_sameFlagsExcept : SameFlagsExcept [flagN, flagV, flagZ, flagC] s (s.accumulate o r) := by
  intro f _ hf
  simp only [List.mem_cons, List.not_mem_nil, or_false, not_or] at hf
  obtain ⟨hN, hV, hZ, hC⟩ := hf
  simp only [State.accumulate, State.setP_regs, putNVZC]
  rw [getFlag_putFlag_other hC, getFlag_putFlag_other hZ, getFlag_putFlag_other hV, getFlag_putFlag_other hN]

/-- A and P, the registers written after the operand's read, are none of those the frame speaks of. -/
theorem State.accumulate_readsOperandOnly : ReadsOperandOnly o s (s.accumulate o r) :=
  s.operandRead_readsOperandOnly o

end

/-! ### The arithmetic of AdcBinary (R142) -/

/-- The mask of the source's V formulas picks the sign bit. -/
theorem and_0x80_ne_zero (b : Byte) : ((b &&& 0x80) != 0) = b.msb := by
  revert b; decide

/-- V as the source words it: the operands have the same sign and the result has the other one. -/
theorem adcBinary_v (a m : Byte) (c : Bool) :
    (adcBinary a m c).v = (a.msb == m.msb && a.msb != (adcBinary a m c).r.msb) := by
  have h := and_0x80_ne_zero (~~~(a ^^^ m) &&& (a ^^^ (adcBinary a m c).r))
  rw [BitVec.msb_and, BitVec.msb_not, BitVec.msb_xor, BitVec.msb_xor] at h
  refine h.trans ?_
  cases a.msb <;> cases m.msb <;> simp

theorem adcBinary_r_toNat (a m : Byte) (c : Bool) :
    (adcBinary a m c).r.toNat = (a.toNat + m.toNat + c.toNat) % 256 := by
  simp [adcBinary]

/-- V says that the signed sum leaves the range of a signed byte. -/
theorem adcBinary_v_iff (a m : Byte) (c : Bool) :
    (adcBinary a m c).v = true ↔ a.toInt + m.toInt + c.toNat < -128 ∨ 127 < a.toInt + m.toInt + c.toNat := by
  have hr := adcBinary_r_toNat a m c
  have ha := a.isLt
  have hm := m.isLt
  have hc := c.toNat_le
  simp only [adcBinary_v, BitVec.msb_eq_decide, BitVec.toInt_eq_toNat_cond, hr, Bool.and_eq_true, beq_iff_eq, bne_iff_ne,
    ne_eq, decide_eq_decide]
  omega

/-- Settles O23: the registers and the frame are those of `State.accumulate`, the values those of AdcBinary. -/
theorem adcBinaryAddsWithCarry : Obligations.AdcBinaryAddsWithCarry := by
  intro o s _ hD m c sum
  have hexec : exec (.adc o) s = .next (s.accumulate o (adcBinary s.regs.a m c)) := by
    rw [exec_adc, hD]; rfl
  refine ⟨_, hexec, ?regs, ?a, ?carry, ⟨?n, ?z⟩, ?v, ?overflow, State.accumulate_sameFlagsExcept s o _,
    State.accumulate_readsOperandOnly s o _⟩
  case regs => rw [State.accumulate_regs]
  case a => exact adcBinary_r_toNat s.regs.a m c
  case carry => exact State.accumulate_flagC s o _
  case n => exact State.accumulate_flagN s o _
  case z => exact State.accumulate_flagZ s o _
  case v => exact State.accumulate_flagV s o _
  case overflow =>
    rw [State.accumulate_flagV]
    exact adcBinary_v_iff s.regs.a m c

end Sys2Proof.Machine
end

section
/-! PROOFS. The compares (spec 44_compare_incdec.md R170 to R173): the flags in the P that Compare writes, then the state in
which CMP, CPX and CPY all end, and from them the obligation. -/

namespace Sys2Proof.Machine

/-! ### P after Compare(reg, m) (R170) -/

/-- The difference of two bytes as bytes is their difference as numbers, reduced to 8 bits. -/
theorem byte_sub_eq_ofInt (r m : Byte) : r - m = BitVec.ofInt 8 ((r.toNat : Int) - m.toNat) := by
  rw [Int.sub_eq_add_neg, BitVec.ofInt_add, BitVec.ofInt_neg, ← BitVec.sub_eq_add_neg]
  simp

theorem getFlag_comparedP_N (r m p : Byte) :
    getFlag flagN (comparedP r m p) = (BitVec.ofInt 8 ((r.toNat : Int) - m.toNat)).getLsbD 7 := by
  simp [comparedP, ← byte_sub_eq_ofInt]

theorem getFlag_comparedP_Z (r m p : Byte) : getFlag flagZ (comparedP r m p) = decide (r = m) := by
  simp [comparedP, beq_eq_decide, BitVec.sub_eq_iff_eq_add]

theorem getFlag_comparedP_other {f : Nat} (hN : f ≠ flagN) (hZ : f ≠ flagZ) (hC : f ≠ flagC) (r m p : Byte) :
    getFlag f (comparedP r m p) = getFlag f p := by
  rw [comparedP, getFlag_putFlag_other hC, getFlag_putNZ_other hN hZ]

/-! ### The state a compare ends in -/

/-- The state with the operand read and P as Compare(reg, M) writes it: the common end of CMP, CPX and CPY (R170). -/
def State.compareWith (s : State) (o : Operand) (reg : Byte) : State :=
  (s.operandRead o).2.setP (comparedP reg (s.operandByte o) s.regs.p)

theorem exec_cmp (o : Operand) (s : State) : exec (.cmp o) s = .next (s.compareWith o s.regs.a) := by
  rw [State.compareWith, ← State.operandRead_fst]; rfl

theorem exec_cpx (o : Operand) (s : State) : exec (.cpx o) s = .next (s.compareWith o s.regs.x) := by
  rw [State.compareWith, ← State.operandRead_fst]; rfl

theorem exec_cpy (o : Operand) (s : State) : exec (.cpy o) s = .next (s.compareWith o s.regs.y) := by
  rw [State.compareWith, ← State.operandRead_fst]; rfl

section
variable (s : State) (o : Operand) (reg : Byte)

theorem State.compareWith_regs : (s.compareWith o reg).regs =
    { s.regs with p := comparedP reg (s.operandByte o) s.regs.p, crossed := s.crossedBy o } := by
  simp only [State.compareWith, State.setP_regs, State.operandRead_regs, State.crossedBy]
  rw [State.evaluate_regs]

/-- "No borrow" as R170 words it: the difference is not negative. -/
theorem State.compareWith_flagC :
    (s.compareWith o reg).flag flagC = decide (0 ≤ (reg.toNat : Int) - (s.operandByte o).toNat) := by
  refine (getFlag_comparedP_C reg (s.operandByte o) s.regs.p).trans (decide_eq_decide.mpr ?_)
  omega

theorem State.compareWith_sameFlagsExcept : SameFlagsExcept [flagN, flagZ, flagC] s (s.compareWith o reg) := by
  intro f _ hf
  simp only [List.mem_cons, List.not_mem_nil, or_false, not_or] at hf
  obtain ⟨hN, hZ, hC⟩ := hf
  exact getFlag_comparedP_other hN hZ hC reg (s.operandByte o) s.regs.p

/-- P, the one register written after the operand's read, is none of those the frame speaks of. -/
theorem State.compareWith_readsOperandOnly : ReadsOperandOnly o s (s.compareWith o reg) :=
  s.operandRead_readsOperandOnly o

end

/-- Settles O27: the three compares end in `State.compareWith` of their register, and the outcome holds of every register. -/
theorem comparesSetCarryNegativeZero : Obligations.ComparesSetCarryNegativeZero := by
  intro o s m Outcome
  have outcome (reg : Byte) : Outcome reg (s.compareWith o reg) := by
    refine ⟨?regs, State.compareWith_flagC s o reg, ?n, ?z, State.compareWith_sameFlagsExcept s o reg,
      State.compareWith_readsOperandOnly s o reg⟩
    case regs => rw [State.compareWith_regs]
    case n => exact getFlag_comparedP_N reg m s.regs.p
    case z => exact getFlag_comparedP_Z reg m s.regs.p
  exact ⟨fun _ => ⟨_, exec_cmp o s, outcome s.regs.a⟩, fun _ => ⟨_, exec_cpx o s, outcome s.regs.x⟩,
    fun _ => ⟨_, exec_cpy o s, outcome s.regs.y⟩⟩

end Sys2Proof.Machine
end

section
/-! PROOFS. The IRQ as a level (spec 60_exceptions.md R255): the start of a step with no NMI pending, then what a service
does to I, and from them the obligation. -/

namespace Sys2Proof.Machine

@[simp] theorem State.nmiInput_inputs (s : State) (level : Bool) : (s.nmiInput level).inputs = s.inputs :=
  (Kept.nmiInput s level).inputs

/-- The edge detector leaves P, so the I that a step tests is the one it began with (R253, R255). -/
@[simp] theorem State.nmiInput_p (s : State) (level : Bool) : (s.nmiInput level).regs.p = s.regs.p := by
  unfold State.nmiInput
  dsimp only
  split <;> rfl

/-- Without an NMI pending, the start of a step turns on the IRQ line and I alone (R232 line (1), R255). -/
theorem State.sampleInterrupts_of_not_pending {s : State} (h : (s.nmiInput s.inputs.nmi).regs.nmiState ≠ .pending) :
    s.sampleInterrupts = if s.inputs.irq = true ∧ s.flag flagI = false
      then (s.nmiInput s.inputs.nmi).service irqVector else s.nmiInput s.inputs.nmi := by
  unfold State.sampleInterrupts
  dsimp only
  rw [if_neg h]
  exact if_congr (by simp [State.flag]) rfl rfl

@[simp] theorem State.service_flagI (s : State) (vector : Word) : (s.service vector).flag flagI = true :=
  getFlag_putFlag_same (by decide) true _

theorem State.services_of_irq {s : State} (hirq : s.inputs.irq = true) (hI : s.flag flagI = false) :
    s.services = true := by
  simp [State.services, hirq, hI]

/-- Settles O54: the first clause is the start of a step without an NMI, the second holds because a level replaces the one
before it, and the third because RTI leaves the input. -/
theorem irqIsALevelRead : Obligations.IrqIsALevelRead := by
  refine ⟨?_, fun _ => rfl, fun s t hrti hirq hI => ?_⟩
  · intro s n hn
    have hstart := State.sampleInterrupts_of_not_pending hn
    refine ⟨fun hserviced => ?_, fun hmasked => hstart.trans (if_neg hmasked)⟩
    rw [hstart, if_pos hserviced]
    exact ⟨rfl, State.service_flagI n irqVector⟩
  · have hline : t.inputs.irq = true := by rw [(Kept.exec hrti).inputs, hirq]
    exact State.services_of_irq hline hI

end Sys2Proof.Machine
end

section
/-! PROOFS. The decoder against the encoder (spec 30_encoding.md R80 to R87): what decodes is an opcode byte followed by the
bytes of an operand in that opcode's mode, and the two opcode maps, by byte and by mnemonic, are each other's inverse. -/

namespace Sys2Proof

/-! ### Operands and modes (R80, R81) -/

@[simp] theorem Mode.operand_mode (m : Mode) (b1 b2 : Byte) : (m.operand b1 b2).mode = m := by cases m <;> rfl

theorem Mode.operand_bytes (m : Mode) (b1 b2 : Byte) :
    (m.operand b1 b2).bytes = [b1, b2].take m.operandBytes := by
  cases m <;> simp [Mode.operand, Operand.bytes, Mode.operandBytes]

theorem Mode.operandBytes_le_two (m : Mode) : m.operandBytes ≤ 2 := by cases m <;> decide

/-! ### The instruction that a mnemonic makes of an operand (R82) -/

@[simp] theorem Mnemonic.instr_mnemonic (m : Mnemonic) (opcode : Byte) (o : Operand) :
    (m.instr opcode o).mnemonic = m := by cases m <;> rfl

/-- A mnemonic without an operand is paired with mode IMP alone, so no operand is lost. -/
theorem Mnemonic.instr_operand {m : Mnemonic} {o : Operand} (h : m.modes.contains o.mode = true) (opcode : Byte) :
    (m.instr opcode o).operand = o := by
  have implied (h : [Mode.imp].contains o.mode = true) : Operand.imp = o := by
    cases o
    case imp => rfl
    all_goals cases h
  cases m
  case tax | tay | txa | tya | tsx | txs | inx | iny | dex | dey => exact implied h
  case rts | rti | brk | clc | sec | cld | sed | cli | sei | clv => exact implied h
  case pha | php | pla | plp | nop | illegal => exact implied h
  all_goals rfl

/-- The opcode map by mnemonic looks at the mode of an operand, not at its bytes (R84). -/
theorem Mnemonic.opcode?_instr_congr (m : Mnemonic) (opcode : Byte) {o o' : Operand} (h : o.mode = o'.mode) :
    (m.instr opcode o).opcode? = (m.instr opcode o').opcode? := by
  cases m <;> simp only [Mnemonic.instr, Instr.opcode?, h]

/-! ### The two opcode maps (R83, R84) -/

/-- From byte to mnemonic and mode, and back to the byte: a check of the 256 rows. -/
theorem opcode?_of_descriptor (opcode : Byte) {o : Operand} (h : o.mode = (descriptor opcode).mode) :
    ((descriptor opcode).mnemonic.instr opcode o).opcode? = some opcode := by
  have rows : ∀ b : Byte,
      ((descriptor b).mnemonic.instr b ((descriptor b).mode.operand 0 0)).opcode? = some b := by decide +kernel
  rw [← rows opcode]
  exact Mnemonic.opcode?_instr_congr _ _ (by rw [h, Mode.operand_mode])

/-- A line of the map by mnemonic agrees with the map by byte if each of its entries does. -/
theorem descriptor_of_pickOpcode {mnemonic : Mnemonic} {mode : Mode} {line : List (Mode × Byte)} {opcode : Byte}
    (hline : ∀ e ∈ line, (descriptor e.2).mnemonic = mnemonic ∧ (descriptor e.2).mode = e.1)
    (h : pickOpcode mode line = some opcode) :
    (descriptor opcode).mnemonic = mnemonic ∧ (descriptor opcode).mode = mode :=
  hline (mode, opcode) <| by
    obtain ⟨before, after, rfl, -⟩ := List.lookup_eq_some_iff.mp h
    simp

/-- From mnemonic and mode to byte, and back: each line of R84 is checked against the rows of R83. -/
theorem descriptor_of_opcode? {i : Instr} {opcode : Byte} (h : i.opcode? = some opcode) :
    (descriptor opcode).mnemonic = i.mnemonic ∧ (descriptor opcode).mode = i.operand.mode := by
  cases i <;> simp only [Instr.opcode?, Instr.mnemonic, Instr.operand, Operand.mode] at h ⊢
  case illegal =>
    obtain ⟨hlisted, ⟨⟩⟩ := Option.ite_none_right_eq_some.mp h
    have hillegal := (descriptor_illegal_iff opcode).mpr hlisted
    have hmode := descriptor_mode_allowed opcode
    rw [hillegal] at hmode
    exact ⟨hillegal, by simpa [Mnemonic.modes] using hmode⟩
  case tax | tay | txa | tya | tsx | txs | inx | iny | dex | dey => cases h; exact ⟨rfl, rfl⟩
  case rts | rti | brk | clc | sec | cld | sed | cli | sei | clv => cases h; exact ⟨rfl, rfl⟩
  case pha | php | pla | plp | nop => cases h; exact ⟨rfl, rfl⟩
  all_goals exact descriptor_of_pickOpcode (by decide +kernel) h

/-- An instruction that the encoder has a byte for is made of its mnemonic, that byte and its operand. -/
theorem instr_of_opcode? {i : Instr} {opcode : Byte} (h : i.opcode? = some opcode) :
    i.mnemonic.instr opcode i.operand = i := by
  cases i
  case illegal =>
    obtain ⟨-, ⟨⟩⟩ := Option.ite_none_right_eq_some.mp h
    rfl
  all_goals rfl

/-- Well-formed instructions are those that the map by mnemonic gives a byte (R85, R116). -/
theorem Instr.wf_iff : ∀ i : Instr, i.wf = true ↔ i.opcode?.isSome = true
  | .lda o => Laws.WfEncodes.lda o
  | .ldx o => Laws.WfEncodes.ldx o
  | .ldy o => Laws.WfEncodes.ldy o
  | .sta o => Laws.WfEncodes.sta o
  | .stx o => Laws.WfEncodes.stx o
  | .sty o => Laws.WfEncodes.sty o
  | .tax => Laws.WfEncodes.tax
  | .tay => Laws.WfEncodes.tay
  | .txa => Laws.WfEncodes.txa
  | .tya => Laws.WfEncodes.tya
  | .tsx => Laws.WfEncodes.tsx
  | .txs => Laws.WfEncodes.txs
  | .adc o => Laws.WfEncodes.adc o
  | .sbc o => Laws.WfEncodes.sbc o
  | .and o => Laws.WfEncodes.and o
  | .eor o => Laws.WfEncodes.eor o
  | .ora o => Laws.WfEncodes.ora o
  | .asl o => Laws.WfEncodes.asl o
  | .lsr o => Laws.WfEncodes.lsr o
  | .rol o => Laws.WfEncodes.rol o
  | .ror o => Laws.WfEncodes.ror o
  | .bit o => Laws.WfEncodes.bit o
  | .cmp o => Laws.WfEncodes.cmp o
  | .cpx o => Laws.WfEncodes.cpx o
  | .cpy o => Laws.WfEncodes.cpy o
  | .inc o => Laws.WfEncodes.inc o
  | .dec o => Laws.WfEncodes.dec o
  | .inx => Laws.WfEncodes.inx
  | .iny => Laws.WfEncodes.iny
  | .dex => Laws.WfEncodes.dex
  | .dey => Laws.WfEncodes.dey
  | .bcc o => Laws.WfEncodes.bcc o
  | .bcs o => Laws.WfEncodes.bcs o
  | .beq o => Laws.WfEncodes.beq o
  | .bne o => Laws.WfEncodes.bne o
  | .bmi o => Laws.WfEncodes.bmi o
  | .bpl o => Laws.WfEncodes.bpl o
  | .bvc o => Laws.WfEncodes.bvc o
  | .bvs o => Laws.WfEncodes.bvs o
  | .jmp o => Laws.WfEncodes.jmp o
  | .jsr o => Laws.WfEncodes.jsr o
  | .rts => Laws.WfEncodes.rts
  | .rti => Laws.WfEncodes.rti
  | .brk => Laws.WfEncodes.brk
  | .clc => Laws.WfEncodes.clc
  | .sec => Laws.WfEncodes.sec
  | .cld => Laws.WfEncodes.cld
  | .sed => Laws.WfEncodes.sed
  | .cli => Laws.WfEncodes.cli
  | .sei => Laws.WfEncodes.sei
  | .clv => Laws.WfEncodes.clv
  | .pha => Laws.WfEncodes.pha
  | .php => Laws.WfEncodes.php
  | .pla => Laws.WfEncodes.pla
  | .plp => Laws.WfEncodes.plp
  | .nop => Laws.WfEncodes.nop
  | .illegal opcode => Laws.WfEncodes.illegal opcode

/-! ### The decoder (R80 to R82, R87) -/

/-- What decodes: an opcode byte, then the bytes of an operand in its mode. -/
theorem decode_eq_ok_iff {bytes rest : List Byte} {i : Instr} :
    decode bytes = .ok (i, rest) ↔
      ∃ opcode o, bytes = opcode :: (o.bytes ++ rest) ∧ o.mode = (descriptor opcode).mode ∧
        i = (descriptor opcode).mnemonic.instr opcode o := by
  constructor
  · intro h
    cases bytes with
    | nil => cases h
    | cons opcode tail =>
      have hbytes := (descriptor opcode).mode.operand_bytes
      have hle := (descriptor opcode).mode.operandBytes_le_two
      simp only [decode, Row.instr, descriptor_opcode] at h
      split at h <;> cases h
      case h_1 hnone => exact ⟨opcode, _, by simp [hbytes, hnone], Mode.operand_mode _ _ _, rfl⟩
      case h_2 hone => exact ⟨opcode, _, by simp [hbytes, hone], Mode.operand_mode _ _ _, rfl⟩
      case h_3 b1 b2 hzero hone =>
        have hne_zero : (descriptor opcode).mode.operandBytes ≠ 0 := hzero
        have hne_one : (descriptor opcode).mode.operandBytes ≠ 1 := hone
        have htwo : (descriptor opcode).mode.operandBytes = 2 := by omega
        exact ⟨opcode, _, by simp [hbytes, htwo], Mode.operand_mode _ _ _, rfl⟩
  · rintro ⟨opcode, o, rfl, hmode, rfl⟩
    simp only [decode, Row.instr, descriptor_opcode, ← hmode]
    cases o <;> simp [Operand.mode, Mode.operandBytes, Operand.bytes, Mode.operand]

/-- Settles O1: the encoding begins with a byte whose descriptor names the instruction's mnemonic and mode. -/
theorem decodeOfEncode : Obligations.DecodeOfEncode := by
  intro i rest hwf
  obtain ⟨opcode, hopcode⟩ := Option.isSome_iff_exists.mp (i.wf_iff.mp hwf)
  obtain ⟨hmnemonic, hmode⟩ := descriptor_of_opcode? hopcode
  refine decode_eq_ok_iff.mpr ⟨opcode, i.operand, ?_, hmode.symm, ?_⟩
  · rw [encode, hopcode]
    rfl
  · rw [hmnemonic, instr_of_opcode? hopcode]

/-- Settles O2: what decodes is made of a row and an operand in its mode, and the map by mnemonic gives back the row's
byte. -/
theorem encodeOfDecode : Obligations.EncodeOfDecode := by
  intro bytes rest i h
  obtain ⟨opcode, o, rfl, hmode, rfl⟩ := decode_eq_ok_iff.mp h
  have hopcode := opcode?_of_descriptor opcode hmode
  have hoperand : ((descriptor opcode).mnemonic.instr opcode o).operand = o :=
    Mnemonic.instr_operand (by rw [hmode]; exact descriptor_mode_allowed opcode) opcode
  refine ⟨(Instr.wf_iff _).mpr (by rw [hopcode]; rfl), ?_⟩
  rw [encode, hopcode, hoperand]
  rfl

/-- A byte selects a row of the official map or is an ILLEGAL entry (R82, R85). -/
theorem descriptor_cases (opcode : Byte) :
    descriptor opcode ∈ opcodeTable ∨ descriptor opcode = illegalRow opcode := by
  unfold descriptor
  cases hfind : opcodeTable.find? fun r => r.opcode == opcode with
  | none => exact .inr rfl
  | some r => exact .inl (List.mem_of_find?_eq_some hfind)

theorem opcodeTable_official : ∀ r ∈ opcodeTable, r.mnemonic ≠ .illegal := by decide +kernel

theorem descriptor_mem_of_official {opcode : Byte} (h : (descriptor opcode).mnemonic ≠ .illegal) :
    descriptor opcode ∈ opcodeTable :=
  (descriptor_cases opcode).resolve_right fun hrow => h (by rw [hrow]; rfl)

theorem descriptor_eq_illegalRow {opcode : Byte} (h : (descriptor opcode).mnemonic = .illegal) :
    descriptor opcode = illegalRow opcode :=
  (descriptor_cases opcode).resolve_left fun hrow => opcodeTable_official _ hrow h

/-- An ILLEGAL entry has no operand byte (R226; the spec's D12). -/
theorem descriptor_mode_of_illegal {opcode : Byte} (h : (descriptor opcode).mnemonic = .illegal) :
    (descriptor opcode).mode = .imp := by
  rw [descriptor_eq_illegalRow h]
  rfl

/-- An ILLEGAL entry costs no cycle (R226; the spec's D12). -/
theorem descriptor_cycles_of_illegal {opcode : Byte} (h : (descriptor opcode).mnemonic = .illegal) :
    (descriptor opcode).cycles = 0 ∧ (descriptor opcode).penalty = false := by
  rw [descriptor_eq_illegalRow h]
  exact ⟨rfl, rfl⟩

/-- Settles O3: the opcode and as many of the two bytes after it as its mode has are what decodes. -/
theorem everyOpcodeByteDecodes : Obligations.EveryOpcodeByteDecodes := by
  refine ⟨fun op b1 b2 => ?_, rfl, by decide +kernel, rfl⟩
  have hdecode : decode [op, b1, b2] =
      .ok (_, [b1, b2].drop (descriptor op).mode.operandBytes) :=
    decode_eq_ok_iff.mpr ⟨op, (descriptor op).mode.operand b1 b2, by
      rw [Mode.operand_bytes, List.take_append_drop], Mode.operand_mode _ _ _, rfl⟩
  refine ⟨_, _, hdecode, ?_, fun hillegal => ?_⟩
  · rw [Mnemonic.instr_mnemonic]
    exact descriptor_illegal_iff op
  · rw [Mnemonic.instr_mnemonic] at hillegal
    rw [descriptor_mode_of_illegal hillegal]
    rfl

/-- Settles O4: a check of the 151 rows. -/
theorem penaltyRowsAreTheIndexedReads : Obligations.PenaltyRowsAreTheIndexedReads := by
  unfold Obligations.PenaltyRowsAreTheIndexedReads
  decide +kernel

/-- Settles O5: each word is decoded by the table. -/
theorem writtenWordsDecode : Obligations.WrittenWordsDecode :=
  ⟨rfl, rfl, rfl, rfl, rfl, rfl, rfl, rfl, rfl, rfl, rfl, rfl⟩

end Sys2Proof
end

section
/-! PROOFS. The invariant (spec 10_state.md R40, 47_step_and_run.md R235): each move of the environment keeps it, and so does
`Step`, whose ticks are the cycles that elapsed since it began. -/

namespace Sys2Proof.Machine

/-- What keeps memory's form and the two bits of P, and neither ticks nor counts a cycle, keeps the invariant. -/
theorem Kept.inv {s t : State} (hkept : Kept s t) (hcyc : t.regs.cyc = s.regs.cyc) (h : s.Inv) : t.Inv where
  memory := hkept.wf h.memory
  constantBit := hkept.bit5 h.constantBit
  breakBit := hkept.bit4.trans h.breakBit
  ticks := by rw [hcyc, hkept.ticks, h.ticks]

@[simp] theorem State.nmiInput_cyc (s : State) (level : Bool) : (s.nmiInput level).regs.cyc = s.regs.cyc := by
  unfold State.nmiInput
  dsimp only
  split <;> rfl

/-! ### The environment's moves (R18) -/

theorem State.Inv.resetSequence {s : State} (h : s.Inv) : s.resetSequence.Inv where
  memory := by simpa [State.resetSequence] using h.memory
  constantBit := by simp [State.resetSequence, getFlag]
  breakBit := by simp [State.resetSequence, getFlag]
  ticks := rfl

theorem State.Inv.applyMove {s : State} (h : s.Inv) (m : Move) : (s.applyMove m).Inv := by
  cases m with
  | irqLine _ | powerOff _ | answer _ => exact ⟨h.memory, h.constantBit, h.breakBit, h.ticks⟩
  | poke a v => exact ⟨Memory.write_wf h.memory a.isLt v, h.constantBit, h.breakBit, h.ticks⟩
  | reset => exact h.resetSequence
  | nmiLine level =>
    have hline : State.Inv { s with inputs := { s.inputs with nmi := level } } :=
      ⟨h.memory, h.constantBit, h.breakBit, h.ticks⟩
    exact (Kept.nmiInput _ level).inv (State.nmiInput_cyc _ level) hline

theorem State.Inv.foldl_applyMove (moves : List Move) : ∀ {s : State}, s.Inv → (moves.foldl State.applyMove s).Inv := by
  induction moves with
  | nil => exact id
  | cons m moves ih => exact fun h => ih (h.applyMove m)

theorem State.Inv.boundary {s : State} (h : s.Inv) : s.boundary.Inv := by
  unfold State.boundary
  split
  · exact h
  · exact State.Inv.foldl_applyMove _ ⟨h.memory, h.constantBit, h.breakBit, h.ticks⟩

/-! ### The step (R232) -/

/-- The ticks emitted at the end of a step bring the count up to CYC again (R235). -/
theorem ticks_of_elapsed {start cyc : Cycles} {ticks : Nat} (h : start = BitVec.ofNat 64 ticks) :
    cyc = BitVec.ofNat 64 (ticks + (cyc - start).toNat) := by
  rw [BitVec.ofNat_add, BitVec.ofNat_toNat, BitVec.setWidth_eq, ← h, BitVec.add_comm, BitVec.sub_add_cancel]

theorem State.Inv.stepOnce {s t : State} (h : s.Inv) (ht : stepOnce s = .next t) : t.Inv := by
  obtain ⟨-, ⟨-, rfl⟩ | ⟨-, u, hu, rfl⟩⟩ := stepOnce_cases ht
  · exact h
  · have hkept : Kept s u := (kept_fetched s).trans (Kept.exec hu)
    refine ⟨hkept.wf h.memory, hkept.bit5 h.constantBit, hkept.bit4.trans h.breakBit, ?_⟩
    change u.accountCycles.regs.cyc = BitVec.ofNat 64 (u.ticks + (u.accountCycles.regs.cyc - s.regs.cyc).toNat)
    rw [hkept.ticks]
    exact ticks_of_elapsed h.ticks

/-- Settles O14: each clause is a computation. -/
theorem invariantAtReset : Obligations.InvariantAtReset where
  memory := rfl
  constantBit := rfl
  breakBit := rfl
  ticks := rfl

/-- Settles O15: a step is the environment's moves and then `Step`, and both keep the invariant. -/
theorem stepKeepsTheInvariant : Obligations.StepKeepsTheInvariant :=
  fun _ _ h ht => h.boundary.stepOnce ht

end Sys2Proof.Machine
end

section
/-! PROOFS. The bus, the fetch and the addressing modes (spec 20_memory.md, 40_addressing_modes.md): what a read and a write
leave in the terms of the statements, and each effective address in integer arithmetic. -/

namespace Sys2Proof.Machine

/-! ### What a bus access leaves (R53) -/

theorem State.memRead_sameMemory (s : State) (a : Word) : SameMemoryExcept [] s (s.memRead a).2 := by
  intro c _
  simp

theorem State.memRead_emits (s : State) (a : Word) : Emits s (s.memRead a).2 [.read a (s.bus.value a)] :=
  Bus.afterRead_events s.bus a

theorem State.memWrite_emits (s : State) (a : Word) (v : Byte) : Emits s (s.memWrite a v) [.write a v] :=
  Bus.afterWrite_events s.bus a v

theorem State.memWrite_sameMemory {s : State} {a : Word} (h : s.bus.kindAt a ≠ none) (v : Byte) :
    SameMemoryExcept [] s (s.memWrite a v) := by
  intro c _
  rw [State.memWrite_bus, Bus.afterWrite_mem_region h]

/-- Plain memory answers the byte last written (R61). -/
theorem Bus.value_afterWrite_same {b : Bus} {a : Word} (hk : b.kindAt a = none) (h : b.mem.wf = true) (v : Byte) :
    (b.afterWrite a v).value a = v := by
  rw [Bus.value_of_not_external (by simp [hk]), Bus.afterWrite_read_same hk h]

/-- An external read answers the first queued byte and uses it up (R57, R66). -/
theorem Bus.read_external {b : Bus} {a : Word} {v : Byte} {rest : List Byte} (hk : b.kindAt a = some .external)
    (h : b.answers = v :: rest) : b.value a = v ∧ (b.afterRead a).answers = rest := by
  simp [Bus.value, Bus.afterRead, hk, h]

/-- Settles O19: the clauses are the rules of one read and one write. -/
theorem busAccesses : Obligations.BusAccesses := by
  intro s a c v hwf
  refine ⟨fun hk => Bus.value_afterWrite_same hk hwf v, fun hne _ => Bus.value_afterWrite s.bus hne v,
    fun hk => State.memWrite_sameMemory hk v, fun rest hk h => Bus.read_external hk h, rfl,
    s.memRead_sameMemory a, s.memRead_emits a, s.memWrite_emits a v, rfl⟩

/-! ### Accesses one after the other -/

/-- The bus after reads at the listed addresses. -/
def Bus.afterReads (b : Bus) : List Word → Bus
  | [] => b
  | a :: rest => (b.afterRead a).afterReads rest

/-- The bus after the listed writes. -/
def Bus.afterWrites (b : Bus) : List (Word × Byte) → Bus
  | [] => b
  | (a, v) :: rest => (b.afterWrite a v).afterWrites rest

@[simp] theorem Bus.afterReads_mem (as : List Word) : ∀ b : Bus, (b.afterReads as).mem = b.mem := by
  induction as with
  | nil => exact fun _ => rfl
  | cons a as ih => exact fun b => (ih _).trans (b.afterRead_mem a)

/-- Each read is one event, with the byte that the bus answers to it (R53). -/
theorem Bus.afterReads_events (as : List Word) :
    ∀ b : Bus, (b.afterReads as).events = (List.zipWith .read as (b.answersTo as)).reverse ++ b.events := by
  induction as with
  | nil => exact fun _ => rfl
  | cons a as ih =>
    intro b
    rw [Bus.afterReads, ih, Bus.afterRead_events]
    simp [Bus.answersTo]

/-- Each write is one event (R53). -/
theorem Bus.afterWrites_events (ws : List (Word × Byte)) :
    ∀ b : Bus, (b.afterWrites ws).events = (ws.map fun w => .write w.1 w.2).reverse ++ b.events := by
  induction ws with
  | nil => exact fun _ => rfl
  | cons w ws ih =>
    intro b
    rw [Bus.afterWrites, ih, Bus.afterWrite_events]
    simp

theorem Bus.afterWrites_read_other {c : Word} :
    ∀ {ws : List (Word × Byte)} {b : Bus}, c ∉ ws.map Prod.fst →
      (b.afterWrites ws).mem.read c.toNat = b.mem.read c.toNat
  | [], _, _ => rfl
  | (a, v) :: ws, b, h => by
    rw [List.map_cons, List.mem_cons, not_or] at h
    rw [Bus.afterWrites, Bus.afterWrites_read_other h.2, Bus.afterWrite_read_other b h.1]

/-- Of writes at addresses of their own, each plain one is read back and each other one leaves what was there (R60, R66). -/
theorem Bus.afterWrites_read_mem {w : Word × Byte} :
    ∀ {ws : List (Word × Byte)} {b : Bus}, (ws.map Prod.fst).Nodup → b.mem.wf = true → w ∈ ws →
      (b.afterWrites ws).mem.read w.1.toNat = if b.kindAt w.1 = none then w.2 else b.mem.read w.1.toNat
  | (a, v) :: ws, b, hnodup, hwf, hw => by
    rw [List.map_cons, List.nodup_cons] at hnodup
    obtain ⟨hfresh, hnodup⟩ := hnodup
    rw [Bus.afterWrites]
    rcases List.mem_cons.mp hw with rfl | hw
    · rw [Bus.afterWrites_read_other hfresh, Bus.read_afterWrite hwf, if_pos rfl]
    · have hne : w.1 ≠ a := fun e => hfresh (List.mem_map.mpr ⟨w, hw, e⟩)
      rw [Bus.afterWrites_read_mem hnodup (Bus.afterWrite_wf hwf a v) hw, Bus.afterWrite_kindAt,
        Bus.afterWrite_read_other b hne]

theorem Bus.afterWrites_storesAll {s t : State} {ws : List (Word × Byte)} (hwf : s.bus.mem.wf = true)
    (hnodup : (ws.map Prod.fst).Nodup) (hmem : t.bus.mem = (s.bus.afterWrites ws).mem) : StoresAll ws s t := by
  refine ⟨fun w hw => ?_, fun a ha => ?_⟩
  · rw [hmem, Bus.afterWrites_read_mem hnodup hwf hw]
  · rw [hmem, Bus.afterWrites_read_other ha]

/-- From `s` to `t` the reads at the listed addresses were made, and answered with the listed bytes. -/
theorem frame_of_afterReads {s t : State} {as : List Word} {vs : List Byte} (hbus : t.bus = s.bus.afterReads as)
    (hanswers : s.bus.answersTo as = vs) :
    SameMemoryExcept [] s t ∧ Emits s t (List.zipWith .read as vs) := by
  refine ⟨fun c _ => ?_, ?_⟩
  · rw [hbus, Bus.afterReads_mem]
  · rw [Emits, hbus, Bus.afterReads_events, hanswers]

/-- The rest of the frame of an instruction whose operations leave IR and the NMI input's last level. -/
theorem Kept.sameSurroundings {s t : State} (h : Kept s t) (hir : t.regs.ir = s.regs.ir)
    (hprev : t.regs.nmiPrev = s.regs.nmiPrev) : SameSurroundings s t :=
  ⟨h.inputs, h.cfg, h.regions, h.ticks, hir, hprev⟩

/-! ### The fetch (R31) -/

theorem word_add_one (w : Word) : w + 1 = BitVec.ofNat 16 (w.toNat + 1) := by simp [BitVec.ofNat_add]

/-- Settles O7: at an address that no device answers for, a read changes the event history only. -/
theorem fetchReadsTheByteAtPC : Obligations.FetchReadsTheByteAtPC := by
  intro s hk
  have hvalue := Bus.value_of_not_external hk
  have hbus := Bus.afterRead_of_not_external hk
  simp only [State.fetch, State.memRead, State.setPC, hbus, hvalue, word_add_one]

/-- The byte an operand write stores in plain memory is the one the bus then answers there. -/
theorem State.value_operandWrite {s : State} {o : Operand} (hwf : s.bus.mem.wf = true)
    (hk : s.bus.kindAt (s.evaluate o).1 = none) (v : Byte) :
    (s.operandWrite o v).bus.value (s.evaluate o).1 = v := by
  rw [State.operandWrite_bus, Bus.value_afterWrite_same] <;> simpa

/-- Settles O8: the three stores are one operand write, and the fetch reads where it wrote. -/
theorem storeIsSeenByTheNextFetch : Obligations.StoreIsSeenByTheNextFetch := by
  intro o s hwf hk hea
  have seen (v : Byte) : (s.operandWrite o v).fetch.1 = v := by
    rw [State.fetch_fst, State.operandWrite_regs, State.evaluate_pc, ← hea]
    exact State.value_operandWrite hwf (by rw [hea]; exact hk) v
  exact ⟨_, _, _, rfl, seen _, rfl, seen _, rfl, seen _⟩

/-! ### Effective addresses (R101 to R113) -/

theorem wordOf_zero_toNat (b : Byte) : (wordOf 0x00 b).toNat = b.toNat := by simp [wordOf_toNat]

theorem wordOf_zero_eq (b : Byte) : wordOf 0x00 b = BitVec.ofNat 16 b.toNat := by
  apply BitVec.eq_of_toNat_eq
  have := b.isLt
  rw [wordOf_zero_toNat, BitVec.toNat_ofNat]
  omega

/-- An index added to a base, modulo 65,536 (R17). -/
theorem indexed_toNat (base : Word) (index : Byte) :
    (base + zext16 index).toNat = (base.toNat + index.toNat) % 65536 := by
  have := index.isLt
  simp [zext16, BitVec.toNat_add]

/-- Two addresses lie on different pages if their high bytes differ (R17). -/
theorem pageCross_eq (ea base : Word) : pageCross ea base = decide (ea.toNat / 256 ≠ base.toNat / 256) := by
  simp [pageCross, bne, beq_eq_decide, ← BitVec.toNat_inj, hiByte_toNat]

/-- An indexed address leaves the page of its base exactly if the low byte overflows. -/
theorem pageCross_indexed (base : Word) (index : Byte) :
    pageCross (base + zext16 index) base = decide (base.toNat % 256 + index.toNat > 255) := by
  have hbase := base.isLt
  have hindex := index.isLt
  rw [pageCross_eq, indexed_toNat, decide_eq_decide]
  omega

/-- A branch target as the sum of two numbers (R113). -/
theorem add_sext16 (pc : Word) (offset : Byte) :
    pc + sext16 offset = BitVec.ofInt 16 ((pc.toNat : Int) + offset.toInt) := by
  rw [BitVec.ofInt_add, BitVec.ofInt_natCast, BitVec.ofNat_toNat, BitVec.setWidth_eq]
  rfl

/-- A branch target, modulo 65,536 (R113). -/
theorem relative_toNat (pc : Word) (offset : Byte) :
    ((pc + sext16 offset).toNat : Int) = ((pc.toNat : Int) + offset.toInt) % 65536 := by
  rw [add_sext16, BitVec.toNat_ofInt]
  omega

/-- Settles O16: each address is one of the computations above. -/
theorem effectiveAddressesWithoutPointer : Obligations.EffectiveAddressesWithoutPointer := by
  intro s b w
  refine ⟨rfl, rfl, ⟨_, rfl, ?imm⟩, ⟨_, rfl, wordOf_zero_toNat b⟩, ⟨_, rfl, ?zex⟩, ⟨_, rfl, ?zey⟩, rfl,
    ⟨_, ?abx, indexed_toNat w s.regs.x⟩, ⟨_, ?aby, indexed_toNat w s.regs.y⟩,
    ⟨_, ?rel, relative_toNat s.regs.pc b⟩⟩
  case imm =>
    have := s.regs.pc.isLt
    bv_omega
  case zex => rw [wordOf_zero_toNat, BitVec.toNat_add]
  case zey => rw [wordOf_zero_toNat, BitVec.toNat_add]
  case abx => rw [← pageCross_indexed]; rfl
  case aby => rw [← pageCross_indexed]; rfl
  case rel => rw [← pageCross_eq]; rfl

/-! ### Pointers (R110, R111, R112, R114) -/

theorem answersTo_two {b : Bus} {x y : Word} {l h : Byte} (hanswers : b.answersTo [x, y] = [l, h]) :
    b.value x = l ∧ (b.afterRead x).value y = h := by
  simpa [Bus.answersTo] using hanswers

/-- The two addresses of a page-0 pointer as numbers: the second wraps in page 0 (R114). -/
theorem zeroPage_addresses (b : Byte) :
    [BitVec.ofNat 16 b.toNat, BitVec.ofNat 16 ((b.toNat + 1) % 256)] = [wordOf 0x00 b, wordOf 0x00 (b + 1)] := by
  rw [wordOf_zero_eq, wordOf_zero_eq, BitVec.toNat_add]
  rfl

/-- Settles O17: both modes read a page-0 pointer, INX at the indexed byte and INY at the operand byte. -/
theorem zeroPagePointersStayInPageZero : Obligations.ZeroPagePointersStayInPageZero := by
  intro s b l h
  constructor
  · intro z lowAt highAt hanswers
    have hz : z = (b + s.regs.x).toNat := (BitVec.toNat_add ..).symm
    have haddresses : [lowAt, highAt] = [wordOf 0x00 (b + s.regs.x), wordOf 0x00 (b + s.regs.x + 1)] := by
      rw [← zeroPage_addresses, ← hz]
    have hframe := frame_of_afterReads (t := (s.evaluate (.inx b)).2) (by rw [haddresses]; rfl) hanswers
    rw [haddresses] at hanswers
    obtain ⟨rfl, rfl⟩ := answersTo_two hanswers
    exact ⟨rfl, rfl, hframe.1, (Kept.evaluate s _).sameSurroundings rfl rfl, hframe.2⟩
  · intro lowAt highAt hanswers
    have haddresses : [lowAt, highAt] = [wordOf 0x00 b, wordOf 0x00 (b + 1)] := zeroPage_addresses b
    have hframe := frame_of_afterReads (t := (s.evaluate (.iny b)).2) (by rw [haddresses]; rfl) hanswers
    rw [haddresses] at hanswers
    obtain ⟨rfl, rfl⟩ := answersTo_two hanswers
    refine ⟨indexed_toNat _ s.regs.y, ?_, hframe.1, (Kept.evaluate s _).sameSurroundings rfl rfl, hframe.2⟩
    have hcrossed := pageCross_indexed (s.zeroPagePointer b).1 s.regs.y
    rw [← loByte_toNat, State.zeroPagePointer_fst, loByte_wordOf] at hcrossed
    rw [← hcrossed]
    rfl

/-- The address of the high byte of a jump pointer as a number (R110). -/
theorem jumpPointerHigh_eq (fix : Bool) (w : Word) :
    jumpPointerHigh fix w =
      if fix then BitVec.ofNat 16 (w.toNat + 1) else BitVec.ofNat 16 (w.toNat / 256 * 256 + (w.toNat + 1) % 256) := by
  cases fix
  · apply BitVec.eq_of_toNat_eq
    simp only [jumpPointerHigh, Bool.false_eq_true, if_false, wordOf_toNat, hiByte_toNat, BitVec.toNat_add, loByte_toNat,
      BitVec.toNat_ofNat]
    have := w.isLt
    have hone : (1 : Byte).toNat = 1 := rfl
    omega
  · exact word_add_one w

/-- Settles O18: the absolute form is a computation, the indirect one two reads at the pointer's addresses. -/
theorem jumpAbsoluteAndIndirect : Obligations.JumpAbsoluteAndIndirect := by
  refine ⟨fun s w => ⟨_, rfl, rfl⟩, ?_⟩
  intro s w l h highAt hanswers
  refine ⟨_, rfl, ?_⟩
  have hhigh : highAt = jumpPointerHigh s.cfg.cmosJmpFix w := (jumpPointerHigh_eq _ w).symm
  have hframe := frame_of_afterReads (t := ((s.evaluate (.abi w)).2.setPC (s.evaluate (.abi w)).1))
    (by rw [hhigh]; rfl) hanswers
  rw [hhigh] at hanswers
  obtain ⟨rfl, rfl⟩ := answersTo_two hanswers
  exact ⟨rfl, hframe.1, ((Kept.evaluate s _).trans (Kept.setPC _ _)).sameSurroundings rfl rfl, hframe.2⟩

end Sys2Proof.Machine
end

section
/-! PROOFS. The instructions that read an operand into a register or into the flags, and those that work on registers alone
(spec 41_load_store_transfer.md, 43_logical_shift_bit.md, 44_compare_incdec.md, 46_flag_stack_nop.md): what `SetNZ` and the
operand's read leave, said once, and from them the obligations. -/

namespace Sys2Proof.Machine

/-! ### N and Z (R14) -/

theorem nzFrom_of_putNZ {t : State} {v p : Byte} (h : t.regs.p = putNZ v p) : NZFrom v t := by
  simp [NZFrom, State.flag, h, beq_eq_decide]

theorem sameFlagsExcept_of_putNZ {s t : State} {v : Byte} (h : t.regs.p = putNZ v s.regs.p) :
    SameFlagsExcept [flagN, flagZ] s t := by
  intro f _ hf
  simp only [List.mem_cons, List.not_mem_nil, or_false, not_or] at hf
  rw [h, getFlag_putNZ_other hf.1 hf.2]

/-! ### Operand reads into a register (R121 to R123, R151 to R153) -/

/-- CROSSED after an evaluation, in the statements' own word. -/
@[simp] theorem State.evaluate_crossed (s : State) (o : Operand) : (s.evaluate o).2.regs.crossed = s.crossedBy o := rfl

/-- The operand read and a byte put into A with N and Z: the common end of LDA, AND, EOR and ORA. -/
def State.intoA (s : State) (o : Operand) (r : Byte) : State := ((s.operandRead o).2.setA r).setNZ r

theorem State.intoA_outcome (s : State) (o : Operand) (r : Byte) :
    (s.intoA o r).regs = { s.regs with a := r, p := (s.intoA o r).regs.p, crossed := s.crossedBy o } ∧
      NZFrom r (s.intoA o r) ∧ SameFlagsExcept [flagN, flagZ] s (s.intoA o r) ∧ ReadsOperandOnly o s (s.intoA o r) := by
  have hp : (s.intoA o r).regs.p = putNZ r s.regs.p := by simp [State.intoA]
  refine ⟨?_, nzFrom_of_putNZ hp, sameFlagsExcept_of_putNZ hp, s.operandRead_readsOperandOnly o⟩
  simp [State.intoA]

theorem exec_lda (o : Operand) (s : State) : exec (.lda o) s = .next (s.intoA o (s.operandByte o)) := by
  rw [← State.operandRead_fst]; rfl

theorem exec_and (o : Operand) (s : State) : exec (.and o) s = .next (s.intoA o (s.regs.a &&& s.operandByte o)) := by
  rw [← State.operandRead_fst]; rfl

theorem exec_eor (o : Operand) (s : State) : exec (.eor o) s = .next (s.intoA o (s.regs.a ^^^ s.operandByte o)) := by
  rw [← State.operandRead_fst]; rfl

theorem exec_ora (o : Operand) (s : State) : exec (.ora o) s = .next (s.intoA o (s.regs.a ||| s.operandByte o)) := by
  rw [← State.operandRead_fst]; rfl

theorem exec_ldx (o : Operand) (s : State) :
    exec (.ldx o) s = .next (((s.operandRead o).2.setX (s.operandByte o)).setNZ (s.operandByte o)) := by
  rw [← State.operandRead_fst]; rfl

theorem exec_ldy (o : Operand) (s : State) :
    exec (.ldy o) s = .next (((s.operandRead o).2.setY (s.operandByte o)).setNZ (s.operandByte o)) := by
  rw [← State.operandRead_fst]; rfl

theorem State.setNZ_p_of_operandRead (s : State) (o : Operand) (v : Byte) :
    ((s.operandRead o).2.setNZ v).regs.p = putNZ v s.regs.p := by simp

/-- Settles O20: LDA ends in `State.intoA`, and LDX and LDY differ from it in the register written. -/
theorem loadsCopyTheByteAndSetNZ : Obligations.LoadsCopyTheByteAndSetNZ := by
  intro o s m
  refine ⟨fun _ => ⟨_, exec_lda o s, s.intoA_outcome o m⟩, fun _ => ⟨_, exec_ldx o s, ?_⟩,
    fun _ => ⟨_, exec_ldy o s, ?_⟩⟩
  all_goals
    have hp := s.setNZ_p_of_operandRead o m
    refine ⟨?_, nzFrom_of_putNZ hp, sameFlagsExcept_of_putNZ hp, s.operandRead_readsOperandOnly o⟩
    simp [m]

/-- Settles O31: the three end in `State.intoA` of their result. -/
theorem logicalOperationsIntoA : Obligations.LogicalOperationsIntoA := by
  intro o s m Outcome
  have outcome (r : Byte) : Outcome r (s.intoA o r) := s.intoA_outcome o r
  exact ⟨fun _ => ⟨_, exec_and o s, outcome _⟩, fun _ => ⟨_, exec_eor o s, outcome _⟩,
    fun _ => ⟨_, exec_ora o s, outcome _⟩⟩

/-! ### BIT (R158) -/

theorem exec_bit (o : Operand) (s : State) :
    exec (.bit o) s = .next ((s.operandRead o).2.setP (bitTestedP s.regs.a (s.operandByte o) s.regs.p)) := by
  rw [← State.operandRead_fst]; rfl

theorem bitTestedP_flags (a m p : Byte) :
    getFlag flagZ (bitTestedP a m p) = decide (a &&& m = 0) ∧ getFlag flagN (bitTestedP a m p) = m.getLsbD 7 ∧
      getFlag flagV (bitTestedP a m p) = m.getLsbD 6 := by
  simp [bitTestedP, beq_eq_decide]

theorem getFlag_bitTestedP_other {f : Nat} (hN : f ≠ flagN) (hV : f ≠ flagV) (hZ : f ≠ flagZ) (a m p : Byte) :
    getFlag f (bitTestedP a m p) = getFlag f p := by
  rw [bitTestedP, getFlag_putFlag_other hV, getFlag_putFlag_other hN, getFlag_putFlag_other hZ]

/-- Settles O34: only P is written after the operand's read. -/
theorem bitTestsMemoryAgainstA : Obligations.BitTestsMemoryAgainstA := by
  intro o s _ m
  obtain ⟨hZ, hN, hV⟩ := bitTestedP_flags s.regs.a m s.regs.p
  refine ⟨_, exec_bit o s, ?regs, hZ, hN, hV, ?flags, s.operandRead_readsOperandOnly o⟩
  case regs => simp
  case flags =>
    intro f _ hf
    simp only [List.mem_cons, List.not_mem_nil, or_false, not_or] at hf
    exact getFlag_bitTestedP_other hf.1 hf.2.1 hf.2.2 s.regs.a m s.regs.p

/-! ### Registers alone: transfers, INX to DEY, the flag instructions, NOP and ILLEGAL -/

/-- Settles O22: a transfer is one register written and `SetNZ` of its byte. -/
theorem transfersCopyTheRegister : Obligations.TransfersCopyTheRegister := by
  intro s
  refine ⟨⟨_, rfl, rfl, rfl, ?_⟩, ⟨_, rfl, rfl, rfl, ?_⟩, ⟨_, rfl, rfl, rfl, ?_⟩, ⟨_, rfl, rfl, rfl, ?_⟩,
    ⟨_, rfl, rfl, rfl, ?_⟩, ⟨_, rfl, rfl⟩⟩
  all_goals exact ⟨nzFrom_of_putNZ rfl, sameFlagsExcept_of_putNZ rfl, rfl, rfl, rfl, rfl, rfl, rfl⟩

theorem byte_add_one (b : Byte) : b + 1 = BitVec.ofNat 8 (b.toNat + 1) := by simp [BitVec.ofNat_add]

theorem byte_sub_one (b : Byte) : b - 1 = BitVec.ofInt 8 ((b.toNat : Int) - 1) := byte_sub_eq_ofInt b 1

/-- Settles O29: as a transfer, of the register plus or minus 1. -/
theorem incrementAndDecrementRegisters : Obligations.IncrementAndDecrementRegisters := by
  intro s Outcome x y
  have outcome {t : State} {r : Byte} (hp : t.regs.p = putNZ r s.regs.p) (hbus : t.bus = s.bus)
      (hframe : SameSurroundings s t) : Outcome r t :=
    ⟨nzFrom_of_putNZ hp, sameFlagsExcept_of_putNZ hp, hbus, hframe⟩
  rw [← byte_add_one, ← byte_add_one, ← byte_sub_one, ← byte_sub_one]
  refine ⟨⟨_, rfl, ?_, rfl⟩, ⟨_, rfl, ?_, rfl⟩, ⟨_, rfl, ?_, rfl⟩, ⟨_, rfl, ?_, rfl⟩⟩
  all_goals exact outcome rfl rfl ⟨rfl, rfl, rfl, rfl, rfl, rfl⟩

/-- Settles O42: each mask is the flag's bit, or its complement. -/
theorem flagInstructionsWriteOneBit : Obligations.FlagInstructionsWriteOneBit :=
  fun _ => ⟨rfl, rfl, rfl, rfl, rfl, rfl, rfl⟩

/-- Settles O45: both handlers are their one line. -/
theorem nopAndIllegal : Obligations.NopAndIllegal := fun _ _ => ⟨rfl, rfl⟩

end Sys2Proof.Machine
end

section
/-! PROOFS. SBC, and ADC and SBC in decimal mode (spec 42_arithmetic.md R143, R145, R146): the functions of the model in the
nibble arithmetic of the statements, then what they are on valid BCD, and from them the obligations. -/

namespace Sys2Proof.Machine

theorem exec_sbc (o : Operand) (s : State) :
    exec (.sbc o) s =
      .next (s.accumulate o (sbcResult (s.flag flagD) s.regs.a (s.operandByte o) (s.flag flagC))) := by
  rw [← State.operandRead_fst]; rfl

/-! ### SbcBinary (R145) -/

/-- A - M - (1 - C), whose sign is the borrow. -/
def sbcDifference (a m : Byte) (c : Bool) : Int := (a.toNat : Int) - m.toNat - (1 - c.toNat)

theorem byte_ofInt_toNat (d : Int) : ((BitVec.ofInt 8 d).toNat : Int) = d % 256 := by
  rw [BitVec.toNat_ofInt]
  omega

/-- V as the source words it: the operands have different signs and the result has not the sign of A. -/
theorem sbcBinary_v (a m : Byte) (c : Bool) :
    (sbcBinary a m c).v = (a.msb != m.msb && a.msb != (sbcBinary a m c).r.msb) := by
  have h := and_0x80_ne_zero ((a ^^^ m) &&& (a ^^^ (sbcBinary a m c).r))
  rwa [BitVec.msb_and, BitVec.msb_xor, BitVec.msb_xor] at h

/-- V says that the signed difference leaves the range of a signed byte. -/
theorem sbcBinary_v_iff (a m : Byte) (c : Bool) :
    (sbcBinary a m c).v = true ↔
      a.toInt - m.toInt - (1 - (c.toNat : Int)) < -128 ∨ 127 < a.toInt - m.toInt - (1 - (c.toNat : Int)) := by
  have hr : ((sbcBinary a m c).r.toNat : Int) = sbcDifference a m c % 256 := byte_ofInt_toNat _
  have ha := a.isLt
  have hm := m.isLt
  have hc := c.toNat_le
  rw [sbcDifference] at hr
  simp only [sbcBinary_v, BitVec.msb_eq_decide, BitVec.toInt_eq_toNat_cond, Bool.and_eq_true, bne_iff_ne, ne_eq,
    decide_eq_decide]
  omega

/-- Settles O25: the registers and the frame are those of `State.accumulate`, the values those of SbcBinary. -/
theorem sbcBinarySubtractsWithBorrow : Obligations.SbcBinarySubtractsWithBorrow := by
  intro o s _ hD m c d
  have hexec : exec (.sbc o) s = .next (s.accumulate o (sbcBinary s.regs.a m c)) := by
    rw [exec_sbc, hD]; rfl
  refine ⟨_, hexec, ?regs, ?a, ?carry, ⟨?n, ?z⟩, ?v, ?overflow, State.accumulate_sameFlagsExcept s o _,
    State.accumulate_readsOperandOnly s o _⟩
  case regs => rw [State.accumulate_regs]
  case a => exact byte_ofInt_toNat d
  case carry => exact State.accumulate_flagC s o _
  case n => exact State.accumulate_flagN s o _
  case z => exact State.accumulate_flagZ s o _
  case v => exact State.accumulate_flagV s o _
  case overflow =>
    rw [State.accumulate_flagV]
    exact sbcBinary_v_iff s.regs.a m c

/-! ### Nibbles (R17) -/

theorem low_nibble (b : Byte) : (b &&& 0x0F).toNat = b.toNat % 16 := by revert b; decide

theorem high_nibble (b : Byte) : (b &&& 0xF0).toNat = 16 * (b.toNat / 16) := by revert b; decide

theorem validBcd_iff (b : Byte) : validBcd b = true ↔ b.toNat / 16 ≤ 9 ∧ b.toNat % 16 ≤ 9 := by
  simp [validBcd]

/-- A byte of two decimal digits is valid BCD and stands for them. -/
theorem bcd_of_digits {b : Byte} {d₁ d₀ : Nat} (h₁ : d₁ ≤ 9) (h₀ : d₀ ≤ 9) (h : b.toNat = 16 * d₁ + d₀) :
    validBcd b = true ∧ bcdValue b = 10 * d₁ + d₀ := by
  rw [validBcd_iff, bcdValue, h]
  exact ⟨by omega, by omega⟩

/-! ### AdcDecimal (R143) -/

/-- The sum of the low nibbles after its fix-up. -/
def adcLowFixed (a m : Byte) (c : Bool) : Nat :=
  let low := a.toNat % 16 + m.toNat % 16 + c.toNat
  if low > 9 then (low + 6) % 16 + 16 else low

/-- The sum of the nibbles after both fix-ups. -/
def adcAdjusted (a m : Byte) (c : Bool) : Nat :=
  let high := 16 * (a.toNat / 16) + 16 * (m.toNat / 16) + adcLowFixed a m c
  if high ≥ 0xA0 then high + 0x60 else high

theorem adcDecimal_r (a m : Byte) (c : Bool) : (adcDecimal a m c).r = BitVec.ofNat 8 (adcAdjusted a m c) := by
  simp only [adcDecimal, low_nibble, high_nibble]
  rfl

theorem adcDecimal_c (a m : Byte) (c : Bool) : (adcDecimal a m c).c = decide (adcAdjusted a m c ≥ 256) := by
  simp only [adcDecimal, low_nibble, high_nibble]
  rfl

/-- A sum of two decimal digits and a carry is a carry and a digit. -/
theorem carry_and_digit {n : Nat} (h : n ≤ 19) : ∃ k d, k ≤ 1 ∧ d ≤ 9 ∧ n = 10 * k + d :=
  ⟨n / 10, n % 10, by omega, by omega, by omega⟩

/-- On valid BCD the nibbles of the adjusted sum are the decimal digits of the sum, and its bit 8 is the carry. -/
theorem adcAdjusted_digits {a m : Byte} (ha : validBcd a = true) (hm : validBcd m = true) (c : Bool) :
    ∃ k d₁ d₀, d₁ ≤ 9 ∧ d₀ ≤ 9 ∧ bcdValue a + bcdValue m + c.toNat = 100 * k + 10 * d₁ + d₀ ∧
      adcAdjusted a m c = 256 * k + 16 * d₁ + d₀ := by
  rw [validBcd_iff] at ha hm
  have hc := c.toNat_le
  obtain ⟨k₀, d₀, hk₀, hd₀, hlow⟩ := carry_and_digit (n := a.toNat % 16 + m.toNat % 16 + c.toNat) (by omega)
  obtain ⟨k, d₁, hk, hd₁, hhigh⟩ := carry_and_digit (n := a.toNat / 16 + m.toNat / 16 + k₀) (by omega)
  have hfixed : adcLowFixed a m c = 16 * k₀ + d₀ := by
    simp only [adcLowFixed, hlow]
    split <;> omega
  refine ⟨k, d₁, d₀, hd₁, hd₀, by unfold bcdValue; omega, ?_⟩
  simp only [adcAdjusted, hfixed]
  split <;> omega

/-- Settles O24: the values are those of AdcDecimal in nibble arithmetic; the rest is `State.accumulate`. -/
theorem adcDecimalAddsBcd : Obligations.AdcDecimalAddsBcd := by
  intro o s _ hD m c rb low lowFixed high adjusted sum
  have hexec : exec (.adc o) s = .next (s.accumulate o (adcDecimal s.regs.a m c)) := by
    rw [exec_adc, hD]; rfl
  have hadjusted : adjusted = adcAdjusted s.regs.a m c := rfl
  have ha : (adcDecimal s.regs.a m c).r.toNat = adjusted % 256 := by
    rw [adcDecimal_r, BitVec.toNat_ofNat, hadjusted]
  refine ⟨_, hexec, ?regs, State.accumulate_flagN s o _, State.accumulate_flagV s o _, ha, ?carry, ?z, fun hva hvm => ?bcd,
    State.accumulate_sameFlagsExcept s o _, State.accumulate_readsOperandOnly s o _⟩
  case regs => rw [State.accumulate_regs]
  case carry => rw [State.accumulate_flagC, adcDecimal_c, hadjusted]
  case z => exact State.accumulate_flagZ s o _
  case bcd =>
    obtain ⟨k, d₁, d₀, hd₁, hd₀, hsum, hdigits⟩ := adcAdjusted_digits hva hvm c
    rw [← hadjusted] at hdigits
    obtain ⟨hvalid, hvalue⟩ := bcd_of_digits hd₁ hd₀ (b := (adcDecimal s.regs.a m c).r) (by omega)
    rw [State.accumulate_a, State.accumulate_flagC, adcDecimal_c, ← hadjusted, hvalue, show sum = _ from hsum]
    exact ⟨hvalid, by omega, decide_eq_decide.mpr (by omega)⟩

/-! ### SbcDecimal (R146) -/

/-- The difference of the low nibbles after its fix-up. -/
def sbcLowFixed (a m : Byte) (c : Bool) : Int :=
  let low : Int := (a.toNat % 16 : Nat) - (m.toNat % 16 : Nat) + c.toNat - 1
  if low < 0 then (low - 6) % 16 - 16 else low

/-- The difference of the nibbles with the low one fixed up. -/
def sbcHigh (a m : Byte) (c : Bool) : Int := 16 * (a.toNat / 16 : Nat) - 16 * (m.toNat / 16 : Nat) + sbcLowFixed a m c

/-- The difference of the nibbles after both fix-ups. -/
def sbcAdjusted (a m : Byte) (c : Bool) : Int := if sbcHigh a m c < 0 then sbcHigh a m c - 0x60 else sbcHigh a m c

theorem sbcDecimal_r (a m : Byte) (c : Bool) : (sbcDecimal a m c).r = BitVec.ofInt 8 (sbcAdjusted a m c) := by
  simp only [sbcDecimal, low_nibble, high_nibble, Nat.cast_mul]
  rfl

/-- The nibble arithmetic borrows exactly when the binary difference does. -/
theorem sbcDecimal_c (a m : Byte) (c : Bool) : (sbcDecimal a m c).c = decide (0 ≤ sbcDifference a m c) := by
  have hhigh : (sbcDecimal a m c).c = decide (0 ≤ sbcHigh a m c) := by
    simp only [sbcDecimal, low_nibble, high_nibble, Nat.cast_mul]
    rfl
  have hc := c.toNat_le
  rw [hhigh, decide_eq_decide, sbcHigh, sbcLowFixed, sbcDifference]
  split <;> omega

/-- A difference of two decimal digits and a borrow is a digit and a borrow. -/
theorem digit_and_borrow {n : Int} (hlow : -10 ≤ n) (hhigh : n ≤ 9) :
    ∃ k d : Nat, k ≤ 1 ∧ d ≤ 9 ∧ n = (d : Int) - 10 * k :=
  ⟨(-(n / 10)).toNat, (n % 10).toNat, by omega, by omega, by omega⟩

/-- On valid BCD the nibbles of the adjusted difference are the decimal digits of the difference, below them the borrow. -/
theorem sbcAdjusted_digits {a m : Byte} (ha : validBcd a = true) (hm : validBcd m = true) (c : Bool) :
    ∃ k d₁ d₀ : Nat, d₁ ≤ 9 ∧ d₀ ≤ 9 ∧
      (bcdValue a : Int) - bcdValue m - (1 - c.toNat) = 10 * d₁ + d₀ - 100 * k ∧
      sbcAdjusted a m c = 16 * d₁ + d₀ - 256 * k ∧ (0 ≤ sbcDifference a m c ↔ k = 0) := by
  rw [validBcd_iff] at ha hm
  have hc := c.toNat_le
  obtain ⟨k₀, d₀, hk₀, hd₀, hlow⟩ :=
    digit_and_borrow (n := (a.toNat % 16 : Nat) - (m.toNat % 16 : Nat) + c.toNat - 1) (by omega) (by omega)
  obtain ⟨k, d₁, hk, hd₁, hhigh⟩ :=
    digit_and_borrow (n := (a.toNat / 16 : Nat) - (m.toNat / 16 : Nat) - k₀) (by omega) (by omega)
  have hfixed : sbcLowFixed a m c = d₀ - 16 * k₀ := by
    simp only [sbcLowFixed, hlow]
    split <;> omega
  refine ⟨k, d₁, d₀, hd₁, hd₀, by unfold bcdValue; omega, ?_, by unfold sbcDifference; omega⟩
  simp only [sbcAdjusted, sbcHigh, hfixed]
  split <;> omega

/-- Settles O26: as O24, of SbcDecimal. -/
theorem sbcDecimalSubtractsBcd : Obligations.SbcDecimalSubtractsBcd := by
  intro o s _ hD m c d rb low lowFixed high adjusted diff
  have hexec : exec (.sbc o) s = .next (s.accumulate o (sbcDecimal s.regs.a m c)) := by
    rw [exec_sbc, hD]; rfl
  have hadjusted : adjusted = sbcAdjusted s.regs.a m c := rfl
  have ha : ((sbcDecimal s.regs.a m c).r.toNat : Int) = adjusted % 256 := by
    rw [sbcDecimal_r, byte_ofInt_toNat, hadjusted]
  refine ⟨_, hexec, ?regs, State.accumulate_flagN s o _, State.accumulate_flagV s o _, ha, ?z, ?carry, fun hva hvm => ?bcd,
    State.accumulate_sameFlagsExcept s o _, State.accumulate_readsOperandOnly s o _⟩
  case regs => rw [State.accumulate_regs]
  case carry => rw [State.accumulate_flagC, sbcDecimal_c]; rfl
  case z => exact State.accumulate_flagZ s o _
  case bcd =>
    obtain ⟨k, d₁, d₀, hd₁, hd₀, hdiff, hdigits, hborrow⟩ := sbcAdjusted_digits hva hvm c
    rw [← hadjusted] at hdigits
    obtain ⟨hvalid, hvalue⟩ := bcd_of_digits hd₁ hd₀ (b := (sbcDecimal s.regs.a m c).r) (by omega)
    rw [State.accumulate_a, State.accumulate_flagC, sbcDecimal_c, hvalue, show diff = _ from hdiff]
    exact ⟨hvalid, by omega, decide_eq_decide.mpr (by omega)⟩

end Sys2Proof.Machine
end

section
/-! PROOFS. What each instruction may write (spec 10_state.md sections 2 to 5, 20_memory.md section 2): the registers, the flags
and the bytes of memory that the shared operations write, then one case split over the instructions for each of the three. -/

namespace Sys2Proof.Machine

/-! ### The registers that the shared operations write -/

@[simp] theorem State.implied_regs (s : State) : s.implied.regs = { s.regs with crossed := false } := rfl
@[simp] theorem State.implied_bus (s : State) : s.implied.bus = s.bus := rfl
@[simp] theorem State.implied_inputs (s : State) : s.implied.inputs = s.inputs := rfl
@[simp] theorem State.implied_cfg (s : State) : s.implied.cfg = s.cfg := rfl
@[simp] theorem State.implied_ticks (s : State) : s.implied.ticks = s.ticks := rfl

section
variable (f : Byte → Bool → Byte × Bool) (s : State) (o : Operand)

/-- A shift writes A, in mode ACC, and P (R150, R159). -/
theorem State.shift_regs : (State.shift f s o).regs =
    { s.regs with a := (State.shift f s o).regs.a, p := (State.shift f s o).regs.p, crossed := s.crossedBy o } := by
  by_cases h : o = .acc
  · subst h
    rfl
  · simp only [State.shift_memory f s h, State.memWrite_regs, State.setP_regs, State.memRead_regs]
    rw [State.evaluate_regs]
    rfl

@[simp] theorem State.shift_x : (State.shift f s o).regs.x = s.regs.x := by rw [State.shift_regs]
@[simp] theorem State.shift_y : (State.shift f s o).regs.y = s.regs.y := by rw [State.shift_regs]
@[simp] theorem State.shift_sp : (State.shift f s o).regs.sp = s.regs.sp := by rw [State.shift_regs]
@[simp] theorem State.shift_pc : (State.shift f s o).regs.pc = s.regs.pc := by rw [State.shift_regs]
@[simp] theorem State.shift_ir : (State.shift f s o).regs.ir = s.regs.ir := by rw [State.shift_regs]
@[simp] theorem State.shift_cyc : (State.shift f s o).regs.cyc = s.regs.cyc := by rw [State.shift_regs]
@[simp] theorem State.shift_nmiState : (State.shift f s o).regs.nmiState = s.regs.nmiState := by rw [State.shift_regs]
@[simp] theorem State.shift_nmiPrev : (State.shift f s o).regs.nmiPrev = s.regs.nmiPrev := by rw [State.shift_regs]

/-- Only in mode ACC a shift writes A. -/
theorem State.eq_acc_of_shift_a (h : (State.shift f s o).regs.a ≠ s.regs.a) : o = .acc :=
  by_contra fun ho => h (by simp [State.shift_memory f s ho])

/-- Of P a shift writes C, N and Z (R150). -/
@[simp] theorem State.shift_flag_other {k : Nat} (hN : k ≠ 7) (hZ : k ≠ 1) (hC : k ≠ 0) :
    getFlag k (State.shift f s o).regs.p = getFlag k s.regs.p := by
  by_cases h : o = .acc
  · subst h
    simp [State.shift_acc, shiftedP, hN, hZ, hC]
  · simp [State.shift_memory f s h, shiftedP, hN, hZ, hC]

end

section
variable (f : Byte → Byte) (s : State) (o : Operand)

/-- INC and DEC write P (R174, R175). -/
theorem State.bump_regs : (State.bump f s o).regs =
    { s.regs with p := (State.bump f s o).regs.p, crossed := s.crossedBy o } := by
  simp only [State.bump, State.memWrite_regs, State.setNZ_regs, State.memRead_regs]
  rw [State.evaluate_regs]
  rfl

@[simp] theorem State.bump_p :
    (State.bump f s o).regs.p = putNZ (f ((s.evaluate o).2.bus.value (s.evaluate o).1)) s.regs.p := by simp [State.bump]
@[simp] theorem State.bump_a : (State.bump f s o).regs.a = s.regs.a := by rw [State.bump_regs]
@[simp] theorem State.bump_x : (State.bump f s o).regs.x = s.regs.x := by rw [State.bump_regs]
@[simp] theorem State.bump_y : (State.bump f s o).regs.y = s.regs.y := by rw [State.bump_regs]
@[simp] theorem State.bump_sp : (State.bump f s o).regs.sp = s.regs.sp := by rw [State.bump_regs]
@[simp] theorem State.bump_pc : (State.bump f s o).regs.pc = s.regs.pc := by rw [State.bump_regs]
@[simp] theorem State.bump_ir : (State.bump f s o).regs.ir = s.regs.ir := by rw [State.bump_regs]
@[simp] theorem State.bump_cyc : (State.bump f s o).regs.cyc = s.regs.cyc := by rw [State.bump_regs]
@[simp] theorem State.bump_nmiState : (State.bump f s o).regs.nmiState = s.regs.nmiState := by rw [State.bump_regs]
@[simp] theorem State.bump_nmiPrev : (State.bump f s o).regs.nmiPrev = s.regs.nmiPrev := by rw [State.bump_regs]

end

section
variable (s : State) (taken : Bool) (o : Operand)

/-- A branch writes PC and CYC (R190). -/
theorem State.branchIf_regs : (s.branchIf taken o).regs =
    { s.regs with
      pc := if taken then (s.evaluate o).1 else s.regs.pc
      cyc := s.regs.cyc + BitVec.ofNat 64 (if taken then (if s.crossedBy o then 2 else 1) else 0)
      crossed := s.crossedBy o } := by
  cases taken
  · refine (s.evaluate_regs o).trans ?_
    simp
  · simp only [State.branchIf, if_true, State.addCycles_regs, State.setPC_regs]
    rw [State.evaluate_regs]
    rfl

@[simp] theorem State.branchIf_a : (s.branchIf taken o).regs.a = s.regs.a := by rw [State.branchIf_regs]
@[simp] theorem State.branchIf_x : (s.branchIf taken o).regs.x = s.regs.x := by rw [State.branchIf_regs]
@[simp] theorem State.branchIf_y : (s.branchIf taken o).regs.y = s.regs.y := by rw [State.branchIf_regs]
@[simp] theorem State.branchIf_sp : (s.branchIf taken o).regs.sp = s.regs.sp := by rw [State.branchIf_regs]
@[simp] theorem State.branchIf_p : (s.branchIf taken o).regs.p = s.regs.p := by rw [State.branchIf_regs]
@[simp] theorem State.branchIf_ir : (s.branchIf taken o).regs.ir = s.regs.ir := by rw [State.branchIf_regs]
@[simp] theorem State.branchIf_nmiState : (s.branchIf taken o).regs.nmiState = s.regs.nmiState := by
  rw [State.branchIf_regs]
@[simp] theorem State.branchIf_nmiPrev : (s.branchIf taken o).regs.nmiPrev = s.regs.nmiPrev := by
  rw [State.branchIf_regs]

end

/-! SP after more than one push or pull, in the numerals of the statements. -/

theorem sp_sub_two (b : Byte) : b - 2 = b - 1 - 1 := by revert b; decide
theorem sp_sub_three (b : Byte) : b - 3 = b - 1 - 1 - 1 := by revert b; decide
theorem sp_add_two (b : Byte) : b + 2 = b + 1 + 1 := by revert b; decide
theorem sp_add_three (b : Byte) : b + 3 = b + 1 + 1 + 1 := by revert b; decide

/-- The writes of the entry of an interrupt: PC high, PC low, P (R54, R257). -/
def State.entryWrites (s : State) (software : Bool) : List (Word × Byte) :=
  [(stackSlot s.regs.sp, hiByte s.regs.pc), (stackSlot (s.regs.sp - 1), loByte s.regs.pc),
    (stackSlot (s.regs.sp - 2), pushedP software s.regs.p)]

/-- The bus as the entry of an interrupt reads the vector. -/
def State.entryBus (s : State) (software : Bool) : Bus := s.bus.afterWrites (s.entryWrites software)

section
variable (s : State) (software : Bool) (vector : Word)

theorem State.entryBus_eq_pushes :
    ((s.pushWord s.regs.pc).push (pushedP software (s.pushWord s.regs.pc).regs.p)).bus = s.entryBus software := by
  simp only [State.push_bus, State.pushWord_bus, State.pushWord_regs, stackAddress_eq_stackSlot, ← sp_sub_two]
  rfl

theorem State.enterInterrupt_bus : (s.enterInterrupt software vector).bus =
    (s.entryBus software).afterReads [vector, vector + 1] := by
  rw [← State.entryBus_eq_pushes]
  rfl

/-- The entry of an interrupt writes SP, of P the bit I, and PC (R203, R257). -/
@[simp] theorem State.enterInterrupt_regs : (s.enterInterrupt software vector).regs =
    { s.regs with
      sp := s.regs.sp - 3
      p := putFlag flagI true s.regs.p
      pc := wordOf (((s.entryBus software).afterRead vector).value (vector + 1)) ((s.entryBus software).value vector) } := by
  rw [← State.entryBus_eq_pushes, sp_sub_three]
  rfl

end

/-- The return before the NMI sequencer is looked at (R202). -/
theorem State.returnFromInterrupt_eq (s : State) :
    let u := (s.pull.2.setP (loadedP s.pull.1 s.regs.p)).pullWord.2.setPC s.pull.2.pullWord.1
    s.returnFromInterrupt = if s.regs.nmiState = .inService then u.setNmiState .armed else u := rfl

/-- The return writes P, SP, PC and the NMI state (R202, R263). -/
@[simp] theorem State.returnFromInterrupt_regs (s : State) : s.returnFromInterrupt.regs =
    { s.regs with
      p := loadedP s.pull.1 s.regs.p
      sp := s.regs.sp + 3
      pc := s.pull.2.pullWord.1
      nmiState := if s.regs.nmiState = .inService then .armed else s.regs.nmiState } := by
  rw [State.returnFromInterrupt_eq, sp_add_three]
  by_cases h : s.regs.nmiState = .inService
  · rw [if_pos h, if_pos h]
    rfl
  · rw [if_neg h, if_neg h]
    rfl

/-! ### Registers (R20 to R36) -/

/-- No instruction writes IR or the NMI input's last level (R32, R35). -/
theorem exec_ir_nmiPrev {i : Instr} {s t : State} (h : exec i s = .next t) :
    t.regs.ir = s.regs.ir ∧ t.regs.nmiPrev = s.regs.nmiPrev := by
  cases i <;> cases h <;> simp

theorem exec_sameSurroundings {i : Instr} {s t : State} (h : exec i s = .next t) : SameSurroundings s t :=
  (Kept.exec h).sameSurroundings (exec_ir_nmiPrev h).1 (exec_ir_nmiPrev h).2

/-- Settles O49: the shared operations write the registers named above, and the handlers the others by name. -/
theorem onlyTheListedInstructionsWriteRegisters : Obligations.OnlyTheListedInstructionsWriteRegisters := by
  intro i s t h
  simp only [exec_sameSurroundings h, and_true]
  cases i <;> cases h <;> simp [Instr.mnemonic, Instr.operand]
  case asl | lsr | rol | ror => exact State.eq_acc_of_shift_a _ s _

/-! ### Flags (R29) -/

/-- Settles O50: each writer of P leaves the bits that it does not name, and every instruction keeps bits 5 and 4. -/
theorem onlyTheListedInstructionsWriteFlags : Obligations.OnlyTheListedInstructionsWriteFlags := by
  intro i s t h
  have hkept := Kept.exec h
  refine and_assoc.mp (and_assoc.mp (and_assoc.mp (and_assoc.mp ⟨?_, hkept.bit4, hkept.bit5⟩)))
  cases i <;> cases h <;> simp [Instr.mnemonic, State.flag, putNVZC, bitTestedP, comparedP]

/-! ### Memory (R53, R61) -/

@[simp] theorem State.branchIf_bus (s : State) (taken : Bool) (o : Operand) :
    (s.branchIf taken o).bus = (s.evaluate o).2.bus := by cases taken <;> rfl

@[simp] theorem State.returnFromInterrupt_bus (s : State) :
    s.returnFromInterrupt.bus = s.pull.2.pullWord.2.bus := by
  rw [State.returnFromInterrupt_eq]
  split <;> rfl

/-- A write changes memory only at its address, and there only where it is plain (R60, R66). -/
theorem Bus.afterWrite_changed {b : Bus} {a c : Word} {v : Byte}
    (h : (b.afterWrite a v).mem.read c.toNat ≠ b.mem.read c.toNat) : b.kindAt c = none ∧ c = a := by
  have hca : c = a := by_contra fun hne => h (b.afterWrite_read_other hne v)
  subst hca
  exact ⟨by_contra fun hk => h (by rw [Bus.afterWrite_mem_region hk]), rfl⟩

theorem Bus.afterWrites_changed {c : Word} :
    ∀ {ws : List (Word × Byte)} {b : Bus}, (b.afterWrites ws).mem.read c.toNat ≠ b.mem.read c.toNat →
      b.kindAt c = none ∧ c ∈ ws.map Prod.fst
  | [], _, h => absurd rfl h
  | (a, v) :: ws, b, h => by
    by_cases hlater : ((b.afterWrite a v).afterWrites ws).mem.read c.toNat = (b.afterWrite a v).mem.read c.toNat
    · obtain ⟨hplain, rfl⟩ := Bus.afterWrite_changed (hlater ▸ h)
      exact ⟨hplain, List.mem_cons_self⟩
    · obtain ⟨hplain, hmem⟩ := Bus.afterWrites_changed hlater
      rw [Bus.afterWrite_kindAt] at hplain
      exact ⟨hplain, List.mem_cons_of_mem _ hmem⟩

/-- Pushes change memory in page 1 only (R22). -/
theorem Bus.pushes_changed {c : Word} {b : Bus} {ws : List (Word × Byte)} (hslots : ∀ w ∈ ws, ∃ sp, w.1 = stackAddress sp)
    (h : (b.afterWrites ws).mem.read c.toNat ≠ b.mem.read c.toNat) : b.kindAt c = none ∧ c.toNat / 256 = 1 := by
  obtain ⟨hplain, hmem⟩ := Bus.afterWrites_changed h
  obtain ⟨w, hw, rfl⟩ := List.mem_map.mp hmem
  obtain ⟨sp, hsp⟩ := hslots w hw
  refine ⟨hplain, ?_⟩
  rw [hsp, ← hiByte_toNat, stackAddress, hiByte_wordOf]
  rfl

/-- Settles O51: the writes of the five kinds of writers, and all other instructions leave memory as it was. -/
theorem onlyTheListedInstructionsWriteMemory : Obligations.OnlyTheListedInstructionsWriteMemory := by
  intro i s t a _ h hne
  cases i <;> cases h
  case sta o | stx o | sty o =>
    obtain ⟨hplain, hea⟩ := Bus.afterWrite_changed (b := (s.evaluate o).2.bus) (by simpa using hne)
    exact ⟨by simpa using hplain, .inl ⟨by simp [Instr.mnemonic], hea⟩⟩
  case inc o | dec o =>
    obtain ⟨hplain, hea⟩ := Bus.afterWrite_changed (b := ((s.evaluate o).2.memRead (s.evaluate o).1).2.bus)
      (by simpa [State.bump] using hne)
    exact ⟨by simpa using hplain, .inl ⟨by simp [Instr.mnemonic], hea⟩⟩
  case asl o | lsr o | rol o | ror o =>
    have ho : o ≠ .acc := by rintro rfl; exact hne rfl
    rw [State.shift_memory _ s ho] at hne
    obtain ⟨hplain, hea⟩ := Bus.afterWrite_changed (b := ((s.evaluate o).2.memRead (s.evaluate o).1).2.bus)
      (by simpa using hne)
    exact ⟨by simpa using hplain, .inr (.inl ⟨by simp [Instr.mnemonic], ho, hea⟩)⟩
  case pha | php =>
    obtain ⟨hplain, hpage⟩ := Bus.pushes_changed (ws := [(stackAddress s.regs.sp, _)]) (by simp) hne
    exact ⟨hplain, .inr (.inr ⟨by simp [Instr.mnemonic], hpage⟩)⟩
  case jsr o =>
    obtain ⟨hplain, hpage⟩ := Bus.pushes_changed (b := (s.evaluate o).2.bus)
      (ws := [(stackAddress _, _), (stackAddress _, _)]) (by simp) (by simpa [Bus.afterWrites] using hne)
    exact ⟨by simpa using hplain, .inr (.inr ⟨by simp [Instr.mnemonic], hpage⟩)⟩
  case brk =>
    rw [State.enterInterrupt_bus, Bus.afterReads_mem] at hne
    obtain ⟨hplain, hpage⟩ := Bus.pushes_changed (by simp [State.entryWrites, ← stackAddress_eq_stackSlot]) hne
    exact ⟨hplain, .inr (.inr ⟨by simp [Instr.mnemonic], hpage⟩)⟩
  all_goals simp at hne

end Sys2Proof.Machine
end

section
/-! PROOFS. The instructions that store to memory (spec 41_load_store_transfer.md, 43_logical_shift_bit.md,
44_compare_incdec.md): one write at the effective address, and the values of INC, DEC and the shifts. -/

namespace Sys2Proof.Machine

/-! ### One byte stored (R60, R66) -/

/-- A write on a bus that has only been read since `s`. -/
theorem storesByte_of_afterWrite {s t : State} {b : Bus} {earlier : List BusEvent} {ea : Word} {v : Byte}
    (hwf : s.bus.mem.wf = true) (hbus : t.bus = b.afterWrite ea v) (hmem : b.mem = s.bus.mem)
    (hkind : b.kindAt ea = s.bus.kindAt ea) (hevents : b.events = earlier.reverse ++ s.bus.events) :
    StoresByte earlier ea v s t := by
  refine ⟨?_, fun hplain => ?_, fun hregion a _ => ?_, fun a ha => ?_⟩
  · simp [Emits, hbus, hevents]
  · rw [hbus, Bus.afterWrite_read_same (hkind.trans hplain) (by rw [hmem]; exact hwf)]
  · rw [hbus, Bus.afterWrite_mem_region (by rw [hkind]; exact hregion), hmem]
  · rw [hbus, Bus.afterWrite_read_other b (by simpa using ha), hmem]

/-- A write straight after the evaluation of an operand. -/
theorem State.operandWrite_storesByte {s : State} (hwf : s.bus.mem.wf = true) (o : Operand) (v : Byte) :
    StoresByte [] (s.evaluate o).1 v (s.evaluate o).2 (s.operandWrite o v) :=
  storesByte_of_afterWrite (by simpa using hwf) rfl rfl rfl rfl

/-- A read and a write of the effective address, straight after the evaluation (R159, R174). -/
theorem storesByte_after_read {u t : State} {ea : Word} {v : Byte} (hwf : u.bus.mem.wf = true)
    (hbus : t.bus = (u.bus.afterRead ea).afterWrite ea v) : StoresByte [.read ea (u.bus.value ea)] ea v u t :=
  storesByte_of_afterWrite hwf hbus (by simp) (by simp) (by simp)

/-- Settles O21: the three stores are one operand write. -/
theorem storesWriteTheRegister : Obligations.StoresWriteTheRegister := by
  intro o s hwf e
  have hregs (v : Byte) : (s.operandWrite o v).regs = { s.regs with crossed := s.crossedBy o } := s.evaluate_regs o
  exact ⟨fun _ => ⟨_, rfl, hregs _, State.operandWrite_storesByte hwf o _, exec_sameSurroundings (i := .sta o) rfl⟩,
    fun _ => ⟨_, rfl, hregs _, State.operandWrite_storesByte hwf o _, exec_sameSurroundings (i := .stx o) rfl⟩,
    fun _ => ⟨_, rfl, hregs _, State.operandWrite_storesByte hwf o _, exec_sameSurroundings (i := .sty o) rfl⟩⟩

/-! ### The operand byte of the read-modify-write instructions -/

theorem Instr.mode_allowed {i : Instr} (h : i.wf = true) : i.operand.mode ∈ i.mnemonic.modes :=
  List.contains_iff_mem.mp (Bool.and_eq_true_iff.mp h).1

/-- An instruction without mode IMM has its operand byte at the effective address (R103). -/
theorem State.operandByte_of_wf {i : Instr} (s : State) (hwf : i.wf = true) (himm : Mode.imm ∉ i.mnemonic.modes) :
    s.operandByte i.operand = (s.evaluate i.operand).2.bus.value (s.evaluate i.operand).1 := by
  have hmode := Instr.mode_allowed hwf
  cases ho : i.operand with
  | imm b => rw [ho] at hmode; exact absurd hmode himm
  | _ => rfl

/-! ### INC and DEC (R174, R175) -/

/-- Settles O28: INC and DEC are one read and one write of the byte plus or minus 1. -/
theorem incrementAndDecrementMemory : Obligations.IncrementAndDecrementMemory := by
  intro o s hwf e v Outcome
  have outcome (f : Byte → Byte) (hv : v = e.2.bus.value e.1) (hsame : SameSurroundings s (State.bump f s o)) :
      Outcome (f v) (State.bump f s o) := by
    have hp : (State.bump f s o).regs.p = putNZ (f v) s.regs.p := by rw [hv]; exact State.bump_p f s o
    have hstores : StoresByte [.read e.1 v] e.1 (f v) e.2 (State.bump f s o) := by
      rw [hv]
      exact storesByte_after_read (by simpa [e] using hwf) rfl
    exact ⟨State.bump_regs f s o, nzFrom_of_putNZ hp, sameFlagsExcept_of_putNZ hp, hstores, hsame⟩
  rw [← byte_add_one, ← byte_sub_one]
  refine ⟨fun hinc => ⟨_, rfl, ?_⟩, fun hdec => ⟨_, rfl, ?_⟩⟩
  · exact outcome (· + 1) (s.operandByte_of_wf hinc (by simp [Instr.mnemonic, Mnemonic.modes]))
      (exec_sameSurroundings (i := .inc o) rfl)
  · exact outcome (· - 1) (s.operandByte_of_wf hdec (by simp [Instr.mnemonic, Mnemonic.modes]))
      (exec_sameSurroundings (i := .dec o) rfl)

/-! ### Shifts and rotates (R154 to R159) -/

section
variable (v : Byte) (c : Bool)

theorem aslOf_eq : aslOf v c = (BitVec.ofNat 8 (2 * v.toNat), decide (128 ≤ v.toNat)) := by
  revert v; decide +revert

theorem lsrOf_eq : lsrOf v c = (BitVec.ofNat 8 (v.toNat / 2), decide (v.toNat % 2 = 1)) := by
  revert v; decide +revert

theorem rolOf_eq : rolOf v c = (BitVec.ofNat 8 (2 * v.toNat + c.toNat), decide (128 ≤ v.toNat)) := by
  revert v; decide +revert

theorem rorOf_eq : rorOf v c = (BitVec.ofNat 8 (v.toNat / 2 + 128 * c.toNat), decide (v.toNat % 2 = 1)) := by
  revert v; decide +revert

end

/-- What the flags of a state say whose P is that of a shift (R150). -/
theorem shifted_flags {s t : State} {r : Byte × Bool} (h : t.regs.p = shiftedP r s.regs.p) :
    t.flag flagC = r.2 ∧ NZFrom r.1 t ∧ SameFlagsExcept [flagN, flagZ, flagC] s t := by
  refine ⟨?_, nzFrom_of_putNZ h, fun f _ hf => ?_⟩
  · simp [State.flag, h, shiftedP]
  · simp only [List.mem_cons, List.not_mem_nil, or_false, not_or] at hf
    obtain ⟨hN, hZ, hC⟩ := hf
    rw [h, shiftedP, getFlag_putNZ_other hN hZ, getFlag_putFlag_other hC]

/-- Settles O32: a shift in mode ACC puts its result in A and P. -/
theorem shiftsOfTheAccumulator : Obligations.ShiftsOfTheAccumulator := by
  intro s a c Outcome
  have outcome {f : Byte → Bool → Byte × Bool} {r : Nat} {carry : Bool}
      (hf : f s.regs.a (s.flag flagC) = (BitVec.ofNat 8 r, carry)) : Outcome r carry (State.shift f s .acc) := by
    have hp : (State.shift f s .acc).regs.p = shiftedP (BitVec.ofNat 8 r, carry) s.regs.p := by rw [← hf]; rfl
    have ha : (State.shift f s .acc).regs.a = BitVec.ofNat 8 r := congrArg Prod.fst hf
    obtain ⟨hC, hNZ, hflags⟩ := shifted_flags hp
    refine ⟨?_, hC, by rw [ha]; exact hNZ, hflags, rfl, ⟨rfl, rfl, rfl, rfl, rfl, rfl⟩⟩
    rw [← ha]
    rfl
  exact ⟨⟨_, rfl, outcome (aslOf_eq _ _)⟩, ⟨_, rfl, outcome (lsrOf_eq _ _)⟩, ⟨_, rfl, outcome (rolOf_eq _ _)⟩,
    ⟨_, rfl, outcome (rorOf_eq _ _)⟩⟩

/-- Settles O33: the read, the write and the flags of one shift, with the value that its function gives. -/
theorem shiftsOfMemory : Obligations.ShiftsOfMemory := by
  intro o s hwf ho e v n c Outcome
  have outcome {f : Byte → Bool → Byte × Bool} {r : Nat} {carry : Bool} (hv : v = e.2.bus.value e.1)
      (hf : f v (s.flag flagC) = (BitVec.ofNat 8 r, carry)) (hsame : SameSurroundings s (State.shift f s o)) :
      Outcome r carry (State.shift f s o) := by
    have hshift := State.shift_memory f s ho
    rw [hv] at hf
    have hp : (State.shift f s o).regs.p = shiftedP (BitVec.ofNat 8 r, carry) s.regs.p := by rw [hshift, ← hf]; rfl
    have hregs : (State.shift f s o).regs = { s.regs with p := (State.shift f s o).regs.p, crossed := s.crossedBy o } := by
      have ha : (State.shift f s o).regs.a = s.regs.a := by_contra fun hne => ho (State.eq_acc_of_shift_a f s o hne)
      have hregs := State.shift_regs f s o
      rwa [ha] at hregs
    obtain ⟨hC, hNZ, hflags⟩ := shifted_flags hp
    have hstores : StoresByte [.read e.1 v] e.1 (BitVec.ofNat 8 r) e.2 (State.shift f s o) := by
      rw [hv, hshift]
      exact storesByte_after_read (by simpa [e] using hwf) (by simp [hf, e])
    exact ⟨hregs, hC, hNZ, hflags, hstores, hsame⟩
  have himm : Mode.imm ∉ shiftModes := by decide
  exact ⟨
    fun h => ⟨_, rfl, outcome (s.operandByte_of_wf h himm) (aslOf_eq _ _) (exec_sameSurroundings (i := .asl o) rfl)⟩,
    fun h => ⟨_, rfl, outcome (s.operandByte_of_wf h himm) (lsrOf_eq _ _) (exec_sameSurroundings (i := .lsr o) rfl)⟩,
    fun h => ⟨_, rfl, outcome (s.operandByte_of_wf h himm) (rolOf_eq _ _) (exec_sameSurroundings (i := .rol o) rfl)⟩,
    fun h => ⟨_, rfl, outcome (s.operandByte_of_wf h himm) (rorOf_eq _ _) (exec_sameSurroundings (i := .ror o) rfl)⟩⟩

end Sys2Proof.Machine
end

section
/-! PROOFS. Branches, the stack, calls, returns, interrupts and reset (spec 45_branch_jump_call.md, 46_flag_stack_nop.md,
60_exceptions.md, 70_reset_and_hazards.md): what a list of pushes stores, what the pulls read back, and from them the
obligations. -/

namespace Sys2Proof.Machine

/-! ### Branches (R190 to R198) -/

theorem State.branchIf_rel (s : State) (taken : Bool) (offset : Byte) :
    let ea := BitVec.ofInt 16 ((s.regs.pc.toNat : Int) + offset.toInt)
    let crossed := decide (ea.toNat / 256 ≠ s.regs.pc.toNat / 256)
    s.branchIf taken (.rel offset) = { s with
      regs := { s.regs with
        pc := if taken then ea else s.regs.pc
        cyc := s.regs.cyc + BitVec.ofNat 64 (if taken then (if crossed then 2 else 1) else 0)
        crossed := crossed } } := by
  dsimp only
  rw [← add_sext16, ← pageCross_eq]
  cases taken
  · simp [State.branchIf, State.evaluate, State.setCrossed]
  · rfl

/-- Settles O35: each branch is `Branch(cond, ea)` with the condition that the statement lists for it. -/
theorem branchesTakenAndNotTaken : Obligations.BranchesTakenAndNotTaken := by
  refine ⟨fun s offset i hi => ?_, by decide +kernel, by decide +kernel⟩
  have hexec : exec i s = .next (s.branchIf (branchTaken i.mnemonic s.regs.p) (.rel offset)) := by
    simp only [List.mem_cons, List.not_mem_nil, or_false] at hi
    rcases hi with rfl | rfl | rfl | rfl | rfl | rfl | rfl | rfl <;> rfl
  rw [hexec, State.branchIf_rel]

/-! ### Pushes -/

@[simp] theorem Bus.afterWrites_regions (ws : List (Word × Byte)) :
    ∀ b : Bus, (b.afterWrites ws).regions = b.regions := by
  induction ws with
  | nil => exact fun _ => rfl
  | cons w ws ih => exact fun b => (ih _).trans (b.afterWrite_regions w.1 w.2)

theorem emits_of_afterWrites {s t : State} {ws : List (Word × Byte)} (hbus : t.bus = s.bus.afterWrites ws) :
    Emits s t (ws.map fun w => .write w.1 w.2) := by
  rw [Emits, hbus, Bus.afterWrites_events]

/-- The slots of two pushes and of three are distinct (R22). -/
theorem slots_nodup (sp : Byte) : [stackSlot sp, stackSlot (sp - 1), stackSlot (sp - 2)].Nodup := by
  obtain ⟨h₀₁, h₀₂, h₁₂⟩ := slots_distinct sp
  simp [stackSlot_inj, h₀₁, h₀₂, h₁₂]

/-- A byte of a list of writes is what the bus answers later, at a plain address with memory as the writes left it. -/
theorem Bus.value_of_stored {b c : Bus} {ws : List (Word × Byte)} {w : Word × Byte} (hwf : b.mem.wf = true)
    (hnodup : (ws.map Prod.fst).Nodup) (hplain : b.kindAt w.1 = none) (hmem : c.mem = (b.afterWrites ws).mem)
    (hregions : c.regions = b.regions) (hw : w ∈ ws) : c.value w.1 = w.2 := by
  have hkind : c.kindAt w.1 = none := by rw [← hplain, Bus.kindAt, Bus.kindAt, hregions]
  rw [Bus.value_of_not_external (by simp [hkind]), hmem, Bus.afterWrites_read_mem hnodup hwf hw, if_pos hplain]

/-- Settles O43: one push, at the slot that SP names. -/
theorem pushesOfAAndP : Obligations.PushesOfAAndP := by
  intro s hwf Outcome
  have outcome (v : Byte) : Outcome v (s.implied.push v) :=
    ⟨rfl, storesByte_of_afterWrite hwf (by rw [← stackAddress_eq_stackSlot]; rfl) rfl rfl rfl,
      ⟨rfl, rfl, by simp, rfl, rfl, rfl⟩⟩
  exact ⟨⟨_, rfl, outcome _⟩, ⟨_, rfl, outcome _⟩⟩

/-! ### Pulls -/

/-- Settles O44: both handlers are one pull and what they do with its byte. -/
theorem pullsOfAAndP : Obligations.PullsOfAAndP := by
  intro s slot v Reads
  have hslot : slot = stackAddress (s.regs.sp + 1) := (stackAddress_eq_stackSlot _).symm
  have hv : v = s.implied.pull.1 := by simp [v, hslot]
  have reads {t : State} (hbus : t.bus = s.bus.afterRead slot) (hsame : SameSurroundings s t) : Reads t := by
    obtain ⟨hmem, hemits⟩ := frame_of_afterReads (as := [slot]) hbus rfl
    exact ⟨hmem, hemits, hsame⟩
  rw [hv]
  refine ⟨⟨_, rfl, rfl, nzFrom_of_putNZ rfl, sameFlagsExcept_of_putNZ rfl, ?_⟩, ⟨_, rfl, rfl, ?_⟩⟩
  · exact reads (by rw [hslot]; rfl) (exec_sameSurroundings (i := .pla) rfl)
  · exact reads (by rw [hslot]; rfl) (exec_sameSurroundings (i := .plp) rfl)

/-- A pull after a push in plain memory answers the byte pushed. -/
theorem State.pull_after_push {s t : State} {v : Byte} (hwf : s.bus.mem.wf = true)
    (hplain : s.bus.kindAt (stackSlot s.regs.sp) = none) (hbus : t.bus = s.bus.afterWrite (stackAddress s.regs.sp) v)
    (hsp : t.regs.sp = s.regs.sp - 1) : t.pull.1 = v ∧ t.pull.2.regs.sp = s.regs.sp := by
  rw [← stackAddress_eq_stackSlot] at hplain
  have hback : s.regs.sp - 1 + 1 = s.regs.sp := BitVec.sub_add_cancel ..
  rw [State.pull_fst, State.pull_regs, hsp, hback, hbus]
  exact ⟨Bus.value_afterWrite_same hplain hwf v, rfl⟩

/-- SP after pulls that follow pushes. -/
theorem sp_back (b : Byte) : b - 1 + 1 = b ∧ b - 2 + 1 = b - 1 ∧ b - 3 + 1 = b - 2 := by revert b; decide

/-- A pull from a slot of a list of earlier pushes answers the byte pushed there, if the slot is plain memory. -/
theorem State.pull_of_stored {s t : State} {ws : List (Word × Byte)} {slot : Byte} {v : Byte} (hwf : s.bus.mem.wf = true)
    (hnodup : (ws.map Prod.fst).Nodup) (hplain : s.bus.kindAt (stackSlot slot) = none)
    (hmem : t.bus.mem = (s.bus.afterWrites ws).mem) (hregions : t.bus.regions = s.bus.regions)
    (hw : (stackSlot slot, v) ∈ ws) (hsp : t.regs.sp + 1 = slot) : t.pull.1 = v := by
  rw [State.pull_fst, stackAddress_eq_stackSlot, hsp]
  exact Bus.value_of_stored hwf hnodup hplain hmem hregions hw

/-- Settles O46: the pull reads back the byte pushed, A or P. -/
theorem pushThenPullRestores : Obligations.PushThenPullRestores := by
  intro s t q hwf hplain
  refine ⟨fun h => ?_, fun h => ?_⟩ <;> cases h
  · obtain ⟨hv, hsp⟩ := State.pull_after_push (t := ((s.implied.push s.regs.a).setA q).implied) hwf hplain rfl rfl
    exact ⟨_, rfl, hv, hsp, nzFrom_of_putNZ (congrArg (putNZ · _) hv)⟩
  · obtain ⟨hv, hsp⟩ := State.pull_after_push (t := ((s.implied.push (pushedP true s.regs.p)).setP q).implied)
      hwf hplain rfl rfl
    refine ⟨_, rfl, hsp, fun f _ hf => ?_, ?_, ?_⟩
    · simp only [List.mem_cons, List.not_mem_nil, or_false, not_or] at hf
      rw [State.setP_regs, hv, getFlag_loadedP, if_neg hf.2, if_neg hf.1, getFlag_pushedP, if_neg hf.2, if_neg hf.1]
    · exact getFlag_loadedP 5 _ q
    · exact getFlag_loadedP 4 _ q

/-! ### Calls and returns (R200, R201) -/

/-- The writes of JSR: the address of its last byte, high byte first (R54). -/
def State.callWrites (s : State) : List (Word × Byte) :=
  [(stackSlot s.regs.sp, hiByte (s.regs.pc - 1)), (stackSlot (s.regs.sp - 1), loByte (s.regs.pc - 1))]

theorem State.callWrites_nodup (s : State) : (s.callWrites.map Prod.fst).Nodup :=
  (slots_nodup s.regs.sp).sublist (List.sublist_append_left [_, _] [_])

/-- The state after `JSR target`. -/
theorem exec_jsr_abs {s t : State} {target : Word} (h : exec (.jsr (.abs target)) s = .next t) :
    t.regs = { s.regs with pc := target, sp := s.regs.sp - 2, crossed := false } ∧
      t.bus = s.bus.afterWrites s.callWrites := by
  cases h
  rw [State.callWrites, ← stackAddress_eq_stackSlot, ← stackAddress_eq_stackSlot, sp_sub_two]
  exact ⟨rfl, rfl⟩

theorem word_sub_one (w : Word) : w - 1 = BitVec.ofInt 16 ((w.toNat : Int) - 1) := by
  rw [Int.sub_eq_add_neg, BitVec.ofInt_add, BitVec.ofInt_neg, ← BitVec.sub_eq_add_neg]
  simp

/-- Settles O36: the two pushes of JSR, and its jump. -/
theorem jsrPushesTheReturnAddress : Obligations.JsrPushesTheReturnAddress := by
  intro s target hwf r high low
  have hr : r = s.regs.pc - 1 := (word_sub_one _).symm
  obtain ⟨t, h⟩ := exec_next (.jsr (.abs target)) s
  obtain ⟨hregs, hbus⟩ := exec_jsr_abs h
  rw [hr]
  exact ⟨t, h, hregs, Bus.afterWrites_storesAll hwf s.callWrites_nodup (by rw [hbus]; rfl), emits_of_afterWrites hbus,
    exec_sameSurroundings h⟩

/-- Settles O37: two pulls, low byte first, and one more than the address pulled. -/
theorem rtsReturnsPastThePulledAddress : Obligations.RtsReturnsPastThePulledAddress := by
  intro s l h low high hanswers
  have hslots : [low, high] = [stackAddress (s.regs.sp + 1), stackAddress (s.regs.sp + 1 + 1)] := by
    rw [stackAddress_eq_stackSlot, stackAddress_eq_stackSlot, ← sp_add_two]
  obtain ⟨hmem, hemits⟩ := frame_of_afterReads (t := s.implied.pullWord.2.setPC (s.implied.pullWord.1 + 1))
    (by rw [hslots]; rfl) hanswers
  rw [hslots] at hanswers
  obtain ⟨rfl, rfl⟩ := answersTo_two hanswers
  refine ⟨_, rfl, ?_, hmem, hemits, exec_sameSurroundings (i := .rts) rfl⟩
  rw [← wordOf_toNat, ← word_add_one, sp_add_two]
  rfl

/-- Two pulls after JSR read back the address that it pushed, if both slots are plain memory. -/
theorem State.pullWord_after_call {s t : State} (hwf : s.bus.mem.wf = true)
    (hhigh : s.bus.kindAt (stackSlot s.regs.sp) = none) (hlow : s.bus.kindAt (stackSlot (s.regs.sp - 1)) = none)
    (hbus : t.bus = s.bus.afterWrites s.callWrites) (hsp : t.regs.sp = s.regs.sp - 2) :
    t.pullWord.1 = s.regs.pc - 1 ∧ t.pullWord.2.regs.sp = s.regs.sp := by
  obtain ⟨hback₁, hback₂, -⟩ := sp_back s.regs.sp
  have hregions : t.bus.regions = s.bus.regions := by simp [hbus]
  have hl : t.pull.1 = loByte (s.regs.pc - 1) :=
    State.pull_of_stored hwf s.callWrites_nodup hlow (by rw [hbus]) hregions (by simp [State.callWrites])
      (by rw [hsp, hback₂])
  have hh : t.pull.2.pull.1 = hiByte (s.regs.pc - 1) :=
    State.pull_of_stored hwf s.callWrites_nodup hhigh (by simp [hbus]) (by simpa using hregions)
      (by simp [State.callWrites]) (by rw [State.pull_regs, hsp, hback₂, hback₁])
  refine ⟨?_, by rw [State.pullWord_regs, hsp, hback₂, hback₁]⟩
  change wordOf t.pull.2.pull.1 t.pull.1 = _
  rw [hl, hh, wordOf_hi_lo]

/-- Settles O40: RTS pulls what JSR pushed, and A, X, Y and P are not looked at. -/
theorem jsrThenRtsReturns : Obligations.JsrThenRtsReturns := by
  intro s t target a x y p hwf hhigh hlow h
  obtain ⟨hregs, hbus⟩ := exec_jsr_abs h
  have hsp : t.regs.sp = s.regs.sp - 2 := by rw [hregs]
  obtain ⟨hpulled, hback⟩ := State.pullWord_after_call (t := ((((t.setA a).setX x).setY y).setP p).implied)
    hwf hhigh hlow hbus hsp
  refine ⟨_, rfl, ?_, hback, by simp⟩
  rw [State.setPC_regs, hpulled]
  exact BitVec.sub_add_cancel ..

/-! ### RTI (R202, R263) -/

/-- Settles O38: the return, with its three pulls at the statement's slots. -/
theorem rtiRestoresStatusAndPC : Obligations.RtiRestoresStatusAndPC := by
  intro s p l h a₁ a₂ a₃ hanswers
  have hslots : [a₁, a₂, a₃] =
      [stackAddress (s.regs.sp + 1), stackAddress (s.regs.sp + 1 + 1), stackAddress (s.regs.sp + 1 + 1 + 1)] := by
    simp only [stackAddress_eq_stackSlot, sp_add_two, sp_add_three, a₁, a₂, a₃]
  obtain ⟨hmem, hemits⟩ := frame_of_afterReads (t := s.implied.returnFromInterrupt)
    (by rw [hslots, State.returnFromInterrupt_bus]; rfl) hanswers
  rw [hslots] at hanswers
  simp only [Bus.answersTo, List.cons.injEq, and_true] at hanswers
  obtain ⟨rfl, rfl, rfl⟩ := hanswers
  exact ⟨_, rfl, State.returnFromInterrupt_regs _, hmem, hemits, exec_sameSurroundings (i := .rti) rfl⟩

/-! ### Interrupts (R203, R257, R258) -/

theorem Bus.value_afterWrites {c : Word} :
    ∀ {ws : List (Word × Byte)} {b : Bus}, c ∉ ws.map Prod.fst → (b.afterWrites ws).value c = b.value c
  | [], _, _ => rfl
  | (a, v) :: ws, b, h => by
    rw [List.map_cons, List.mem_cons, not_or] at h
    rw [Bus.afterWrites, Bus.value_afterWrites h.2, Bus.value_afterWrite b h.1]

theorem Bus.value_afterRead_afterWrites {c : Word} (x : Word) :
    ∀ {ws : List (Word × Byte)} {b : Bus}, c ∉ ws.map Prod.fst →
      ((b.afterWrites ws).afterRead x).value c = (b.afterRead x).value c
  | [], _, _ => rfl
  | (a, v) :: ws, b, h => by
    rw [List.map_cons, List.mem_cons, not_or] at h
    rw [Bus.afterWrites, Bus.value_afterRead_afterWrites x h.2, Bus.value_afterRead_afterWrite b x h.1]

section
variable (s : State) (software : Bool)

theorem State.entryWrites_nodup : ((s.entryWrites software).map Prod.fst).Nodup := slots_nodup s.regs.sp

/-- No push of the entry is at an address outside page 1, so none is at a vector. -/
theorem State.not_mem_entryWrites {a : Word} (h : 512 ≤ a.toNat) : a ∉ (s.entryWrites software).map Prod.fst := by
  simp [State.entryWrites, ne_stackSlot h]

end

/-- The two vectors, and the address after each, lie above the stack page. -/
theorem vector_above_stack {vector : Word} (h : vector = nmiVector ∨ vector = irqVector) :
    512 ≤ vector.toNat ∧ 512 ≤ (vector + 1).toNat := by
  rcases h with rfl | rfl <;> decide

/-- The entry through a vector: PC is what the vector holds, whatever is pushed (R257). -/
theorem State.enterInterrupt_regs_of_vector (s : State) (software : Bool) {vector : Word}
    (hv : vector = nmiVector ∨ vector = irqVector) :
    (s.enterInterrupt software vector).regs =
      { s.regs with
        sp := s.regs.sp - 3
        p := s.regs.p ||| 0x04
        pc := wordOf ((s.bus.afterRead vector).value (vector + 1)) (s.bus.value vector) } := by
  obtain ⟨hlow, hhigh⟩ := vector_above_stack hv
  rw [State.enterInterrupt_regs, State.entryBus, Bus.value_afterRead_afterWrites _ (s.not_mem_entryWrites software hhigh),
    Bus.value_afterWrites (s.not_mem_entryWrites software hlow)]
  rfl

/-- The stores and the events of the entry through a vector (R257). -/
theorem State.enterInterrupt_frame {s : State} {software : Bool} {vector : Word} {l h : Byte} (hwf : s.bus.mem.wf = true)
    (hv : vector = nmiVector ∨ vector = irqVector) (hanswers : s.bus.answersTo [vector, vector + 1] = [l, h]) :
    StoresAll (s.entryWrites software) s (s.enterInterrupt software vector) ∧
      Emits s (s.enterInterrupt software vector)
        ((s.entryWrites software).map (fun w => .write w.1 w.2) ++ [.read vector l, .read (vector + 1) h]) := by
  obtain ⟨hlow, hhigh⟩ := vector_above_stack hv
  obtain ⟨hl, hh⟩ := answersTo_two hanswers
  have hread : (s.entryBus software).answersTo [vector, vector + 1] = [l, h] := by
    rw [Bus.answersTo, Bus.answersTo, Bus.answersTo, State.entryBus,
      Bus.value_afterRead_afterWrites _ (s.not_mem_entryWrites software hhigh),
      Bus.value_afterWrites (s.not_mem_entryWrites software hlow), hl, hh]
  refine ⟨Bus.afterWrites_storesAll hwf (s.entryWrites_nodup software) ?_, ?_⟩
  · rw [State.enterInterrupt_bus, Bus.afterReads_mem, State.entryBus]
  · rw [Emits, State.enterInterrupt_bus, Bus.afterReads_events, hread, State.entryBus, Bus.afterWrites_events]
    simp

/-- Settles O39: the software entry, with PC moved past the signature byte first. -/
theorem brkTakesTheSoftwareInterrupt : Obligations.BrkTakesTheSoftwareInterrupt := by
  intro s l h hwf r a₁ a₂ a₃ p hanswers
  let u := s.implied.setPC (s.regs.pc + 1)
  have hr : r = u.regs.pc := (word_add_one _).symm
  obtain ⟨hstores, hemits⟩ := State.enterInterrupt_frame (s := u) (software := true) (vector := irqVector) hwf
    (.inr rfl) hanswers
  have hregs := u.enterInterrupt_regs_of_vector true (vector := irqVector) (.inr rfl)
  rw [hr]
  obtain ⟨rfl, rfl⟩ := answersTo_two hanswers
  exact ⟨_, rfl, hregs, hstores, hemits, exec_sameSurroundings (i := .brk) rfl⟩

theorem State.service_sameSurroundings (s : State) (vector : Word) : SameSurroundings s (s.service vector) :=
  (Kept.service s vector).sameSurroundings rfl rfl

/-- Settles O52: the hardware entry, and 7 cycles. -/
theorem interruptServiceSequence : Obligations.InterruptServiceSequence := by
  intro s vector l h hwf hv a₁ a₂ a₃ p t hanswers
  obtain ⟨hstores, hemits⟩ := State.enterInterrupt_frame (s := s) (software := false) hwf hv hanswers
  have hregs := s.enterInterrupt_regs_of_vector false hv
  obtain ⟨rfl, rfl⟩ := answersTo_two hanswers
  refine ⟨?_, hstores, hemits, s.service_sameSurroundings vector⟩
  simp only [t, State.service, State.addCycles_regs, hregs]
  rfl

/-! ### The start of a step with an NMI (R253, R254, R256) -/

@[simp] theorem State.nmiInput_bus (s : State) (level : Bool) : (s.nmiInput level).bus = s.bus := by
  unfold State.nmiInput
  dsimp only
  split <;> rfl

/-- The edge detector writes NMI_STATE, at an edge while armed, and NMI_PREV. -/
@[simp] theorem State.nmiInput_regs (s : State) (level : Bool) : (s.nmiInput level).regs =
    { s.regs with
      nmiState := if level && !s.regs.nmiPrev && decide (s.regs.nmiState = .armed) then .pending else s.regs.nmiState
      nmiPrev := level } := by
  unfold State.nmiInput
  dsimp only
  split <;> rfl

/-- A pending NMI is serviced first, whatever the IRQ line is (R256). -/
theorem State.sampleInterrupts_of_pending {s : State} (h : (s.nmiInput s.inputs.nmi).regs.nmiState = .pending) :
    s.sampleInterrupts = ((s.nmiInput s.inputs.nmi).setNmiState .inService).service nmiVector :=
  if_pos h

/-- Settles O53: the service of the pending NMI. -/
theorem nmiWinsOverIrq : Obligations.NmiWinsOverIrq := by
  intro s hpending t
  let u := (s.nmiInput s.inputs.nmi).setNmiState .inService
  have ht : t = u.service nmiVector := State.sampleInterrupts_of_pending hpending
  have hregs := u.enterInterrupt_regs_of_vector false (vector := nmiVector) (.inl rfl)
  have hbus : u.bus = s.bus := s.nmiInput_bus _
  rw [ht]
  refine ⟨?state, ?pc, ?sp, State.service_flagI u nmiVector, ?cyc, ?events⟩
  case state => rw [State.service, State.addCycles_regs, hregs]; rfl
  case pc => rw [State.service, State.addCycles_regs, hregs, hbus]; rfl
  case sp => rw [State.service, State.addCycles_regs, hregs]; simp [u]
  case cyc => rw [State.service, State.addCycles_regs, hregs]; simp [u, intServiceCycles]
  case events =>
    rw [State.service, State.addCycles_bus, State.enterInterrupt_bus, Bus.afterReads_events, State.entryBus,
      Bus.afterWrites_events, hbus]
    simp [State.entryWrites, Bus.answersTo]

/-! ### Round trips through an entry (R261) -/

/-- Pulls after an entry read back the status and PC that it pushed, if the three slots are plain memory. -/
theorem State.pulls_after_entry {s t : State} {software : Bool} (hwf : s.bus.mem.wf = true)
    (h₁ : s.bus.kindAt (stackSlot s.regs.sp) = none) (h₂ : s.bus.kindAt (stackSlot (s.regs.sp - 1)) = none)
    (h₃ : s.bus.kindAt (stackSlot (s.regs.sp - 2)) = none) (hmem : t.bus.mem = (s.entryBus software).mem)
    (hregions : t.bus.regions = s.bus.regions) (hsp : t.regs.sp = s.regs.sp - 3) :
    t.pull.1 = pushedP software s.regs.p ∧ t.pull.2.pullWord.1 = s.regs.pc := by
  obtain ⟨hback₁, hback₂, hback₃⟩ := sp_back s.regs.sp
  have hnodup := s.entryWrites_nodup software
  have hp : t.pull.1 = pushedP software s.regs.p :=
    State.pull_of_stored hwf hnodup h₃ hmem hregions (by simp [State.entryWrites]) (by rw [hsp, hback₃])
  have hl : t.pull.2.pull.1 = loByte s.regs.pc :=
    State.pull_of_stored hwf hnodup h₂ ((Bus.afterRead_mem _ _).trans hmem) (by simpa using hregions)
      (by simp [State.entryWrites])
      (by rw [State.pull_regs, hsp, hback₃, hback₂])
  have hh : t.pull.2.pull.2.pull.1 = hiByte s.regs.pc :=
    State.pull_of_stored hwf hnodup h₁
      (by rw [State.pull_bus, Bus.afterRead_mem, State.pull_bus, Bus.afterRead_mem, hmem]; rfl)
      (by simpa using hregions) (by simp [State.entryWrites])
      (by rw [State.pull_regs, State.pull_regs, hsp, hback₃, hback₂, hback₁])
  refine ⟨hp, ?_⟩
  change wordOf t.pull.2.pull.2.pull.1 t.pull.2.pull.1 = _
  rw [hl, hh, wordOf_hi_lo]

/-- What RTI restores after an entry: PC, SP and P but for bits 4 and 5 (R261). -/
theorem State.returnFromInterrupt_after_entry {s t : State} {software : Bool} (hwf : s.bus.mem.wf = true)
    (h₁ : s.bus.kindAt (stackSlot s.regs.sp) = none) (h₂ : s.bus.kindAt (stackSlot (s.regs.sp - 1)) = none)
    (h₃ : s.bus.kindAt (stackSlot (s.regs.sp - 2)) = none) (hmem : t.bus.mem = (s.entryBus software).mem)
    (hregions : t.bus.regions = s.bus.regions) (hsp : t.regs.sp = s.regs.sp - 3) :
    t.returnFromInterrupt.regs.pc = s.regs.pc ∧ t.returnFromInterrupt.regs.sp = s.regs.sp ∧
      SameFlagsExcept [4, 5] s t.returnFromInterrupt := by
  obtain ⟨hp, hpc⟩ := State.pulls_after_entry hwf h₁ h₂ h₃ hmem hregions hsp
  rw [SameFlagsExcept, State.returnFromInterrupt_regs]
  refine ⟨hpc, ?_, fun f _ hf => ?_⟩
  · rw [hsp]
    exact BitVec.sub_add_cancel ..
  · simp only [List.mem_cons, List.not_mem_nil, or_false, not_or] at hf
    rw [hp, getFlag_loadedP, if_neg hf.2, if_neg hf.1, getFlag_pushedP, if_neg hf.2, if_neg hf.1]

/-- Settles O41: the entry of BRK is that of `State.returnFromInterrupt_after_entry`, with PC past the signature byte. -/
theorem brkThenRtiReturns : Obligations.BrkThenRtiReturns := by
  intro s t hwf h₁ h₂ h₃ h
  cases h
  let u := s.implied.setPC (s.regs.pc + 1)
  obtain ⟨hpc, hsp, hflags⟩ := State.returnFromInterrupt_after_entry (s := u) (software := true)
    (t := (u.enterInterrupt true irqVector).implied) hwf h₁ h₂ h₃
    (by rw [State.implied_bus, State.enterInterrupt_bus, Bus.afterReads_mem])
    (Kept.enterInterrupt u true irqVector).regions (by simp)
  exact ⟨_, rfl, (congrArg BitVec.toNat hpc).trans (BitVec.toNat_add ..), hsp, hflags⟩

/-- Settles O57: a service is the entry of `State.returnFromInterrupt_after_entry`. -/
theorem serviceThenRtiResumes : Obligations.ServiceThenRtiResumes := by
  intro s vector hwf h₁ h₂ h₃
  obtain ⟨hpc, hsp, hflags⟩ := State.returnFromInterrupt_after_entry (s := s) (software := false)
    (t := (s.service vector).implied) hwf h₁ h₂ h₃
    (by rw [State.implied_bus, State.service, State.addCycles_bus, State.enterInterrupt_bus, Bus.afterReads_mem])
    (Kept.service s vector).regions (by simp [State.service])
  refine ⟨_, rfl, hpc, hsp, by simp [State.service], by simp [State.service], by simp [State.service], hflags,
    fun hservice => ?_⟩
  rw [State.returnFromInterrupt_regs]
  exact if_pos (by simpa [State.service] using hservice)

/-- The last three events of an entry: two reads, and before them the push of P (R257). -/
theorem State.enterInterrupt_pushes_status (s : State) (software : Bool) (vector : Word) :
    BusEvent.write (stackSlot (s.regs.sp - 2)) (pushedP software s.regs.p) ∈
      (s.enterInterrupt software vector).bus.events.take 3 := by
  rw [State.enterInterrupt_bus, Bus.afterReads_events, State.entryBus, Bus.afterWrites_events]
  simp [State.entryWrites, Bus.answersTo]

/-- Settles O47: PHP pushes the software copy, BRK and the services push theirs in the entry. -/
theorem pushedCopyOfStatus : Obligations.PushedCopyOfStatus := by
  refine ⟨fun p => ⟨rfl, rfl, getFlag_pushedP 4 true p, getFlag_pushedP 4 false p⟩, fun s => ⟨_, rfl, rfl, ?_⟩,
    fun s => ⟨_, rfl, rfl, ?_⟩, fun s vector _ => ⟨rfl, s.enterInterrupt_pushes_status false vector⟩⟩
  · exact emits_of_afterWrites (ws := [(stackSlot s.regs.sp, s.regs.p ||| 0x30)])
      (by rw [← stackAddress_eq_stackSlot]; rfl)
  · exact (s.implied.setPC (s.regs.pc + 1)).enterInterrupt_pushes_status true irqVector

/-! ### Reset (R280) -/

/-- Settles O58: two reads at the reset vector. -/
theorem resetSequence : Obligations.ResetSequence := by
  intro s l h hanswers t
  obtain ⟨hmem, hemits⟩ := frame_of_afterReads (t := t) rfl hanswers
  obtain ⟨rfl, rfl⟩ := answersTo_two hanswers
  exact ⟨rfl, hmem, hemits, rfl, rfl, rfl, by simp [t, State.resetSequence]⟩

/-- The bus of the platform RAM64 with memory that lists nothing (R67). -/
def emptyRam : Bus := { mem := [], regions := [], answers := [], freeReads := 0, events := [] }

/-- The reset vector reads 0x0000 there. -/
theorem emptyRam_resetVector :
    wordOf ((emptyRam.afterRead resetVector).value (resetVector + 1)) (emptyRam.value resetVector) = 0x0000 := by decide

/-- The reset sequence leaves of the registers IR, NMI_PREV and CROSSED only, so with them and the bus given it is known. -/
theorem State.resetSequence_of_emptyRam {s : State} (hbus : s.bus = emptyRam) (hcfg : s.cfg = Config.standard)
    (hinputs : s.inputs = State.reset.inputs) (hir : s.regs.ir = 0x00) (hprev : s.regs.nmiPrev = false)
    (hcrossed : s.regs.crossed = false) : s.resetSequence = State.reset := by
  simp only [State.resetSequence, State.readWord_fst, State.readWord_bus, State.readWord_regs, State.readWord_inputs,
    State.readWord_cfg, hbus, emptyRam_resetVector, hcfg, hinputs, hir, hprev, hcrossed]
  rfl

/-- Settles O59: the reset sequence on empty memory. -/
theorem stateAfterReset : Obligations.StateAfterReset :=
  ⟨⟨rfl, rfl, rfl, rfl, rfl, rfl, rfl, rfl⟩,
    fun _ _ _ _ _ _ _ _ _ _ => State.resetSequence_of_emptyRam rfl rfl rfl rfl rfl rfl⟩

end Sys2Proof.Machine
end

section
/-! PROOFS. The step and the run (spec 47_step_and_run.md R230 to R237): the fetch of an instruction against the decoder, what
a step leaves in IR, HALT and CYC, and from them the obligations about one step and about runs. -/

namespace Sys2Proof.Machine

/-! ### The fetch of an instruction (R82, R100) -/

/-- The instruction fetched is made of the row that its opcode byte selects, and only PC and IR change. -/
theorem State.fetchInstr_spec (s : State) :
    (∃ b1 b2, s.fetchInstr.1 = (descriptor (s.bus.value s.regs.pc)).instr b1 b2) ∧
      s.fetchInstr.2.regs = { s.regs with pc := s.fetchInstr.2.regs.pc, ir := s.bus.value s.regs.pc } := by
  unfold State.fetchInstr
  dsimp only
  split <;> exact ⟨⟨_, _, rfl⟩, rfl⟩

theorem State.fetchedInstr_mnemonic (s : State) : s.fetchedInstr.mnemonic = (descriptor s.fetched.regs.ir).mnemonic := by
  obtain ⟨⟨b1, b2, hinstr⟩, hregs⟩ := s.sampleInterrupts.fetchInstr_spec
  rw [State.fetchedInstr, hinstr, State.fetched, hregs]
  exact Mnemonic.instr_mnemonic _ _ _

/-- The instruction fetched and the state after it, by the number of operand bytes (R80, R100). -/
theorem State.fetchInstr_eq (s : State) :
    let r := descriptor s.fetch.1
    let f₀ := s.fetch.2.setIR s.fetch.1
    s.fetchInstr =
      if r.mode.operandBytes = 0 then (r.instr 0 0, f₀)
      else if r.mode.operandBytes = 1 then (r.instr f₀.fetch.1 0, f₀.fetch.2)
      else (r.instr f₀.fetch.1 f₀.fetch.2.fetch.1, f₀.fetch.2.fetch.2) := by
  unfold State.fetchInstr
  dsimp only
  split
  next hn => rw [if_pos hn]
  next hn => rw [if_neg (by rw [hn]; decide), if_pos hn]
  next hzero hone => rw [if_neg hzero, if_neg hone]

/-- What an opcode byte with two bytes after it decodes to, by the number of operand bytes (R80). -/
theorem decode_three (opcode b1 b2 : Byte) :
    let r := descriptor opcode
    decode [opcode, b1, b2] =
      .ok (if r.mode.operandBytes = 0 then (r.instr 0 0, [b1, b2])
        else if r.mode.operandBytes = 1 then (r.instr b1 0, [b2])
        else (r.instr b1 b2, [])) := by
  dsimp only [decode]
  generalize (descriptor opcode).mode.operandBytes = n
  match n with
  | 0 | 1 | _ + 2 => rfl

/-- Settles O6: the decoder and the fetch look at the same row, so they take the same bytes. -/
theorem stepRunsTheDecodedInstruction : Obligations.StepRunsTheDecodedInstruction := by
  intro s₀ i rest s f₀ f₁ f₂ hc ha hdecode
  have run {u : State} (hfetch : s.sampleInterrupts.fetchInstr = (i, u)) :
      step s₀ =
        match exec i u with
        | .next t => .next (t.accountCycles.emitTicks s.regs.cyc)
        | .fault r => .fault r
        | .refused r => .refused r := by
    obtain ⟨t, ht⟩ := exec_next i u
    rw [ht]
    exact stepOnce_run hc ha (by rw [State.fetchedInstr, State.fetched, hfetch]; exact ht)
  have hfetch := s.sampleInterrupts.fetchInstr_eq
  rw [decode_three] at hdecode
  by_cases hzero : (descriptor f₀.1).mode.operandBytes = 0
  · rw [if_pos hzero] at hdecode
    cases hdecode
    exact run (hfetch.trans (if_pos hzero))
  · rw [if_neg hzero] at hdecode
    by_cases hone : (descriptor f₀.1).mode.operandBytes = 1
    · rw [if_pos hone] at hdecode
      cases hdecode
      exact run (hfetch.trans ((if_neg hzero).trans (if_pos hone)))
    · rw [if_neg hone] at hdecode
      cases hdecode
      exact run (hfetch.trans ((if_neg hzero).trans (if_neg hone)))

/-! ### What a step leaves (R232) -/

@[simp] theorem State.accountCycles_regs (s : State) : s.accountCycles.regs =
    { s.regs with
      cyc := s.regs.cyc + BitVec.ofNat 64 (descriptorCycles (descriptor s.regs.ir) s.regs.crossed) } := rfl
theorem State.accountCycles_regs_of_cyc {s : State} {cyc : Cycles} (h : s.accountCycles.regs.cyc = cyc) :
    s.accountCycles.regs = { s.regs with cyc } := h ▸ rfl
@[simp] theorem State.accountCycles_bus (s : State) : s.accountCycles.bus = s.bus := rfl
@[simp] theorem State.accountCycles_inputs (s : State) : s.accountCycles.inputs = s.inputs := rfl
@[simp] theorem State.accountCycles_cfg (s : State) : s.accountCycles.cfg = s.cfg := rfl
@[simp] theorem State.accountCycles_ticks (s : State) : s.accountCycles.ticks = s.ticks := rfl
@[simp] theorem State.emitTicks_regs (s : State) (start : Cycles) : (s.emitTicks start).regs = s.regs := rfl
@[simp] theorem State.emitTicks_bus (s : State) (start : Cycles) : (s.emitTicks start).bus = s.bus := rfl
@[simp] theorem State.emitTicks_inputs (s : State) (start : Cycles) : (s.emitTicks start).inputs = s.inputs := rfl
@[simp] theorem State.emitTicks_cfg (s : State) (start : Cycles) : (s.emitTicks start).cfg = s.cfg := rfl
@[simp] theorem State.emitTicks_ticks (s : State) (start : Cycles) :
    (s.emitTicks start).ticks = s.ticks + (s.regs.cyc - start).toNat := rfl

@[simp] theorem State.fetchInstr_halt (s : State) : s.fetchInstr.2.regs.halt = s.regs.halt := by
  rw [s.fetchInstr_spec.2]

/-- A completed step: the state that its instruction leaves, with IR still the opcode that was fetched. -/
theorem stepOnce_completed {s t : State} (ha : s.alive = true) (h : stepOnce s = .next t) :
    ∃ u, exec s.fetchedInstr s.fetched = .next u ∧ t = u.accountCycles.emitTicks s.regs.cyc ∧
      s.fetchedInstr.mnemonic = (descriptor t.regs.ir).mnemonic := by
  obtain ⟨-, ⟨hdead, -⟩ | ⟨-, u, hu, rfl⟩⟩ := stepOnce_cases h
  · rw [ha] at hdead
    cases hdead
  · refine ⟨u, hu, rfl, ?_⟩
    rw [State.fetchedInstr_mnemonic, ← (exec_ir_nmiPrev hu).1]
    rfl

/-- After a completed step the core is alive unless the instruction was ILLEGAL (R15, R231). -/
theorem alive_of_completed {s t : State} (ha : s.alive = true) (h : stepOnce s = .next t) :
    t.alive = decide ((descriptor t.regs.ir).mnemonic ≠ .illegal) := by
  obtain ⟨u, hu, rfl, hmnemonic⟩ := stepOnce_completed ha h
  have hhalt : u.regs.halt = (s.regs.halt || decide (s.fetchedInstr.mnemonic = .illegal)) := by
    rw [exec_halt hu, State.fetched, State.fetchInstr_halt, State.sampleInterrupts_halt]
  have hinputs : u.inputs = s.inputs := (Kept.exec hu).inputs.trans (kept_fetched s).inputs
  simp only [State.alive, Bool.and_eq_true, Bool.not_eq_true'] at ha
  rw [← hmnemonic]
  change (!u.regs.halt && !u.inputs.powerOff) = _
  rw [hhalt, hinputs, ha.1, ha.2]
  simp

/-- Settles O9: the idle step, and the completed one, whose end is alive unless its instruction was ILLEGAL. -/
theorem threeOutcomesOfAStep : Obligations.ThreeOutcomesOfAStep := by
  intro s hc
  refine ⟨fun hstopped => ?_, fun hrunning => ?_⟩
  · have hdead : s.alive = false := by rcases hstopped with h | h <;> simp [State.alive, h]
    exact ⟨stepOnce_idle hc hdead, hdead⟩
  · have ha : s.alive = true := by simp [State.alive, hrunning]
    obtain ⟨u, hu⟩ := exec_next s.fetchedInstr s.fetched
    have hstep := stepOnce_run hc ha hu
    have halive := alive_of_completed ha hstep
    refine ⟨_, hstep, fun hlegal => ?_, fun hillegal => ?_⟩ <;> rw [halive]
    · exact decide_eq_true hlegal
    · exact decide_eq_false fun hlegal => hlegal hillegal

/-- A step of an accepted configuration answers a next state with the same parameters. -/
theorem stepOnce_next {s : State} (hc : s.cfg.undocumentedOpcodes = false) :
    ∃ t, stepOnce s = .next t ∧ t.cfg = s.cfg := by
  cases ha : s.alive with
  | false => exact ⟨s, stepOnce_idle hc ha, rfl⟩
  | true =>
    obtain ⟨u, hu⟩ := exec_next s.fetchedInstr s.fetched
    exact ⟨_, stepOnce_run hc ha hu, (Kept.exec hu).cfg.trans (kept_fetched s).cfg⟩

/-- Settles O10: by induction on the number of steps, each of which keeps the parameters. -/
theorem noRunStops : Obligations.NoRunStops := by
  refine fun s => ⟨fun hc n => ?_, fun hc => stepOnce_refused (by rwa [State.boundary_cfg])⟩
  induction n generalizing s with
  | zero => exact ⟨s, rfl⟩
  | succ n ih =>
    obtain ⟨t, hstep, hcfg⟩ := stepOnce_next (s := s.boundary) (by rwa [State.boundary_cfg])
    rw [State.boundary_cfg] at hcfg
    rw [core_run_succ hstep]
    exact ih t (by rwa [hcfg])

/-! ### An illegal opcode (R226) -/

/-- Without an interrupt to service, the start of a step records the level of the NMI input and no more (R253). -/
theorem State.sampleInterrupts_of_no_service {s : State} (h : s.services = false) :
    s.sampleInterrupts = s.setNmiPrev s.inputs.nmi := by
  simp only [State.services, Bool.or_eq_false_iff, decide_eq_false_iff_not] at h
  obtain ⟨hpending, hirq⟩ := h
  rw [State.sampleInterrupts_of_not_pending hpending, if_neg (by rintro ⟨h₁, h₂⟩; simp [h₁, h₂] at hirq)]
  unfold State.nmiInput
  dsimp only
  split
  next hedge => simp [hedge] at hpending
  next => rfl

/-- The state before the cycle accounting of the step at an illegal opcode: NMI_PREV sampled, one byte fetched, the latch
set. -/
def State.trapped (s : State) : State :=
  ((s.setNmiPrev s.inputs.nmi).fetch.2.setIR (s.bus.value s.regs.pc)).implied.setHalt true

theorem stepOnce_of_illegal {s : State} (hc : s.cfg.undocumentedOpcodes = false) (ha : s.alive = true)
    (hquiet : s.services = false) (hillegal : (descriptor (s.bus.value s.regs.pc)).mnemonic = .illegal) :
    stepOnce s = .next (s.trapped.accountCycles.emitTicks s.regs.cyc) := by
  have hfetch : s.sampleInterrupts.fetchInstr =
      ((descriptor (s.bus.value s.regs.pc)).instr 0 0,
        (s.setNmiPrev s.inputs.nmi).fetch.2.setIR (s.bus.value s.regs.pc)) := by
    rw [State.sampleInterrupts_of_no_service hquiet]
    refine (State.fetchInstr_eq _).trans (if_pos ?_)
    change (descriptor (s.bus.value s.regs.pc)).mode.operandBytes = 0
    rw [descriptor_mode_of_illegal hillegal]
    rfl
  refine stepOnce_run hc ha ?_
  rw [State.fetchedInstr, State.fetched, hfetch, Row.instr, hillegal]
  rfl

/-- Settles O48: the step ends in `State.trapped`, and the accounting adds no cycle and no tick. -/
theorem illegalOpcodeStep : Obligations.IllegalOpcodeStep := by
  intro s hc ha hquiet hlisted
  have hillegal := (descriptor_illegal_iff (s.bus.value s.regs.pc)).mpr hlisted
  obtain ⟨hcycles, hpenalty⟩ := descriptor_cycles_of_illegal hillegal
  have hcyc : s.trapped.accountCycles.regs.cyc = s.regs.cyc := by
    simp [State.trapped, descriptorCycles, hcycles, hpenalty]
  refine ⟨_, stepOnce_of_illegal hc ha hquiet hillegal, ?regs, fun a _ => ?memory, ?events, ?ticks, ?inputs, ?cfg,
    ?regions, ?alive⟩
  case regs =>
    rw [State.emitTicks_regs, State.accountCycles_regs_of_cyc hcyc, ← word_add_one]
    rfl
  case memory => simp [State.trapped]
  case events => simp [Emits, State.trapped]
  case ticks => rw [State.emitTicks_ticks, hcyc]; simp [State.trapped]
  case inputs => simp [State.trapped]
  case cfg => simp [State.trapped]
  case regions => simp [State.trapped]
  case alive => simp [State.alive, State.trapped]

end Sys2Proof.Machine
end

section
/-! PROOFS. The NMI sequencer (spec 60_exceptions.md R253, R254, R263): the edge detector over a sequence of levels, then the
NMI state through a step. -/

namespace Sys2Proof.Machine

/-! ### The edge detector -/

/-- From armed, one level latches an NMI exactly at an edge. -/
theorem State.nmiInput_of_armed {s : State} (h : s.regs.nmiState = .armed) (level : Bool) :
    (s.nmiInput level).regs.nmiState = if s.regs.nmiPrev = false ∧ level = true then .pending else .armed := by
  cases level <;> simp [h]

theorem State.nmiInput_of_not_armed {s : State} (h : s.regs.nmiState ≠ .armed) (level : Bool) :
    (s.nmiInput level).regs.nmiState = s.regs.nmiState := by simp [h]

theorem foldl_nmiInput_of_not_armed (levels : List Bool) :
    ∀ {s : State}, s.regs.nmiState ≠ .armed → (levels.foldl State.nmiInput s).regs.nmiState = s.regs.nmiState := by
  induction levels with
  | nil => exact fun _ => rfl
  | cons level levels ih =>
    intro s h
    have hstate := State.nmiInput_of_not_armed h level
    rw [List.foldl_cons, ih (by rwa [hstate]), hstate]

theorem foldl_nmiInput_nmiPrev (levels : List Bool) :
    ∀ s : State, (levels.foldl State.nmiInput s).regs.nmiPrev = levels.getLastD s.regs.nmiPrev := by
  induction levels with
  | nil => exact fun _ => rfl
  | cons level levels ih =>
    intro s
    rw [List.foldl_cons, ih, List.getLastD_cons, State.nmiInput_regs]

/-- An edge in a sequence that begins with two levels is between them or after the first. -/
theorem edge_cons_cons_iff (prev level : Bool) (levels : List Bool) :
    [false, true] <:+: (prev :: level :: levels) ↔
      (prev = false ∧ level = true) ∨ [false, true] <:+: (level :: levels) := by
  rw [List.infix_cons_iff, List.cons_prefix_cons, List.cons_prefix_cons]
  simp [eq_comm]

theorem foldl_nmiInput_of_armed (levels : List Bool) :
    ∀ {s : State}, s.regs.nmiState = .armed →
      (levels.foldl State.nmiInput s).regs.nmiState =
        if [false, true] <:+: (s.regs.nmiPrev :: levels) then .pending else .armed := by
  induction levels with
  | nil =>
    intro s h
    have hshort : ¬ [false, true] <:+: [s.regs.nmiPrev] := fun h => by simpa using h.length_le
    rw [if_neg hshort]
    exact h
  | cons level levels ih =>
    intro s h
    have hstate := State.nmiInput_of_armed h level
    rw [List.foldl_cons]
    by_cases hedge : s.regs.nmiPrev = false ∧ level = true
    · rw [if_pos hedge] at hstate
      rw [foldl_nmiInput_of_not_armed levels (by rw [hstate]; decide), hstate,
        if_pos ((edge_cons_cons_iff _ _ _).mpr (.inl hedge))]
    · rw [if_neg hedge] at hstate
      rw [ih hstate, State.nmiInput_regs]
      exact if_congr (by rw [edge_cons_cons_iff, or_iff_right hedge]) rfl rfl

/-- Settles O55: the three clauses are inductions over the sequence. -/
theorem nmiEdgeDetector : Obligations.NmiEdgeDetector :=
  fun s levels => ⟨foldl_nmiInput_of_armed levels, foldl_nmiInput_of_not_armed levels, foldl_nmiInput_nmiPrev levels s⟩

/-! ### The NMI state through a step -/

/-- The start of a step takes a pending NMI into service (R254). -/
theorem State.sampleInterrupts_nmiState (s : State) :
    s.sampleInterrupts.regs.nmiState =
      if (s.nmiInput s.inputs.nmi).regs.nmiState = .pending then .inService
      else (s.nmiInput s.inputs.nmi).regs.nmiState := by
  by_cases h : (s.nmiInput s.inputs.nmi).regs.nmiState = .pending
  · rw [State.sampleInterrupts_of_pending h, if_pos h]
    rfl
  · rw [State.sampleInterrupts_of_not_pending h, if_neg h]
    split <;> rfl

/-- RTI alone writes the NMI state: it ends an NMI in service (R263). -/
theorem exec_nmiState {i : Instr} {s t : State} (h : exec i s = .next t) :
    t.regs.nmiState =
      if i.mnemonic = .rti ∧ s.regs.nmiState = .inService then .armed else s.regs.nmiState := by
  cases i <;> cases h
  case rti =>
    rw [State.returnFromInterrupt_regs]
    exact if_congr (by simp [Instr.mnemonic]) rfl rfl
  all_goals simp [Instr.mnemonic]

/-- The NMI state after a step, from the state that its start leaves and the instruction it runs. -/
theorem nmiState_of_completed {s t : State} (ha : s.alive = true) (h : stepOnce s = .next t) :
    t.regs.nmiState =
      if (descriptor t.regs.ir).mnemonic = .rti ∧ s.sampleInterrupts.regs.nmiState = .inService then .armed
      else s.sampleInterrupts.regs.nmiState := by
  obtain ⟨u, hu, rfl, hmnemonic⟩ := stepOnce_completed ha h
  have hfetched : s.fetched.regs.nmiState = s.sampleInterrupts.regs.nmiState := by
    rw [State.fetched, s.sampleInterrupts.fetchInstr_spec.2]
  have hstate := exec_nmiState hu
  rw [hmnemonic, hfetched] at hstate
  exact hstate

/-- Settles O56: in each case the NMI state after the edge detector says what is serviced and what the step leaves. -/
theorem nmiIsNotReenteredBeforeRti : Obligations.NmiIsNotReenteredBeforeRti := by
  intro s t ha h n atMostIrq left
  have hafter := nmiState_of_completed ha h
  have hstart := s.sampleInterrupts_nmiState
  refine ⟨fun hstate => ?_, fun hstate => ?_, fun hstate hline => ?_⟩
  · have hn : (s.nmiInput s.inputs.nmi).regs.nmiState = .inService := by
      rw [State.nmiInput_of_not_armed (by rw [hstate]; decide), hstate]
    rw [hn] at hstart
    refine ⟨State.sampleInterrupts_of_not_pending (by rw [hn]; decide), hafter.trans ?_⟩
    simp [hstart, left]
  · have hn : (s.nmiInput s.inputs.nmi).regs.nmiState = .pending := by
      rw [State.nmiInput_of_not_armed (by rw [hstate]; decide), hstate]
    rw [hn] at hstart
    refine ⟨State.sampleInterrupts_of_pending hn, hafter.trans ?_⟩
    simp [hstart, left]
  · have hn : (s.nmiInput s.inputs.nmi).regs.nmiState = .armed := by
      rw [State.nmiInput_of_armed hstate, if_neg]
      rintro ⟨hprev, hlevel⟩
      rcases hline with hline | hline
      · rw [hlevel] at hline; cases hline
      · rw [hprev] at hline; cases hline
    rw [hn] at hstart
    refine ⟨State.sampleInterrupts_of_not_pending (by rw [hn]; decide), hafter.trans ?_⟩
    simp [hstart]

end Sys2Proof.Machine
end

section
/-! PROOFS. Cycles and runs (spec 47_step_and_run.md R232 to R236): the cycles that the service, the instruction and the
accounting add, the bounds on their sum, and from them what a run is charged. -/

namespace Sys2Proof.Machine

/-! ### What each part of a step adds to CYC -/

/-- A service adds 7 cycles, and without one the start of a step adds none (R257). -/
theorem State.sampleInterrupts_cyc (s : State) :
    s.sampleInterrupts.regs.cyc = s.regs.cyc + BitVec.ofNat 64 (if s.services then 7 else 0) := by
  by_cases h : (s.nmiInput s.inputs.nmi).regs.nmiState = .pending
  · rw [State.sampleInterrupts_of_pending h, if_pos (by simp only [State.services, h, decide_true, Bool.true_or])]
    simp [State.service, intServiceCycles]
  · have hservices : s.services = true ↔ s.inputs.irq = true ∧ s.flag flagI = false := by
      simp only [State.services, h, decide_false, Bool.false_or, Bool.and_eq_true, Bool.not_eq_true']
    rw [State.sampleInterrupts_of_not_pending h]
    by_cases hirq : s.inputs.irq = true ∧ s.flag flagI = false
    · rw [if_pos hirq, if_pos (hservices.mpr hirq)]
      simp [State.service, intServiceCycles]
    · rw [if_neg hirq, if_neg (mt hservices.mp hirq)]
      simp

/-- A taken branch adds its cycles, and no other instruction does (R190). -/
theorem exec_cyc {i : Instr} {s t : State} (h : exec i s = .next t) :
    t.regs.cyc = s.regs.cyc +
      BitVec.ofNat 64 (if branchTaken i.mnemonic t.regs.p then (if t.regs.crossed then 2 else 1) else 0) := by
  cases i <;> cases h
  case bcc | bcs | beq | bne | bmi | bpl | bvc | bvs => rw [State.branchIf_regs]; rfl
  all_goals simp [branchTaken, Instr.mnemonic]

/-- The cycles of a completed step (R234). -/
theorem cyc_of_completed {s t : State} (ha : s.alive = true) (h : stepOnce s = .next t) :
    let r := descriptor t.regs.ir
    t.regs.cyc = s.regs.cyc + BitVec.ofNat 64
      ((if s.services then 7 else 0) + r.cycles + (if r.penalty && t.regs.crossed then 1 else 0) +
        (if branchTaken r.mnemonic t.regs.p then (if t.regs.crossed then 2 else 1) else 0)) := by
  obtain ⟨u, hu, rfl, hmnemonic⟩ := stepOnce_completed ha h
  have hfetched : s.fetched.regs.cyc = s.sampleInterrupts.regs.cyc := by
    rw [State.fetched, s.sampleInterrupts.fetchInstr_spec.2]
  have hcyc := exec_cyc hu
  rw [hmnemonic, hfetched, State.sampleInterrupts_cyc] at hcyc
  rw [State.emitTicks_regs, State.accountCycles_regs, hcyc, descriptorCycles]
  simp only [BitVec.ofNat_add, State.emitTicks_regs, State.accountCycles_regs]
  ac_rfl

/-! ### Bounds -/

theorem opcodeTable_cycles : ∀ r ∈ opcodeTable, 2 ≤ r.cycles ∧ r.cycles + (if r.penalty then 1 else 0) ≤ 7 ∧
    (r.cycles = 7 ↔
      r.mnemonic = .brk ∨ (r.mnemonic ∈ [.asl, .lsr, .rol, .ror, .inc, .dec] ∧ r.mode = .abx)) := by decide +kernel

theorem mem_branches_of_branchTaken {m : Mnemonic} {p : Byte} (h : branchTaken m p = true) :
    m ∈ [.bcc, .bcs, .beq, .bne, .bmi, .bpl, .bvc, .bvs] := by
  cases m
  case bcc | bcs | beq | bne | bmi | bpl | bvc | bvs => decide
  all_goals cases h

theorem opcodeTable_branches : ∀ r ∈ opcodeTable, r.mnemonic ∈ [.bcc, .bcs, .beq, .bne, .bmi, .bpl, .bvc, .bvs] →
    r.cycles = 2 ∧ r.penalty = false := by decide +kernel

/-- The base count, the penalty and the cycles of a taken branch are 2 to 7 together. -/
theorem row_cycles_bounds {r : Row} (hr : r ∈ opcodeTable) (p : Byte) (crossed : Bool) :
    let n := r.cycles + (if r.penalty && crossed then 1 else 0) +
      (if branchTaken r.mnemonic p then (if crossed then 2 else 1) else 0)
    2 ≤ n ∧ n ≤ 7 := by
  obtain ⟨hlow, hhigh, -⟩ := opcodeTable_cycles r hr
  by_cases hbranch : branchTaken r.mnemonic p = true
  · obtain ⟨hcycles, hpenalty⟩ := opcodeTable_branches r hr (mem_branches_of_branchTaken hbranch)
    cases crossed <;> simp [hbranch, hcycles, hpenalty]
  · cases hpenalty : r.penalty <;> cases crossed <;> simp [hbranch, hpenalty] at hhigh ⊢ <;> omega

/-- A completed step that ran no ILLEGAL entry: 2 to 7 cycles, and 7 more with a service (R234). -/
theorem elapsed_bounds {s t : State} (ha : s.alive = true) (h : stepOnce s = .next t)
    (hofficial : (descriptor t.regs.ir).mnemonic ≠ .illegal) :
    2 ≤ (t.regs.cyc - s.regs.cyc).toNat ∧ (t.regs.cyc - s.regs.cyc).toNat ≤ 14 ∧
      (s.services = false → (t.regs.cyc - s.regs.cyc).toNat ≤ 7) := by
  obtain ⟨hlow, hhigh⟩ := row_cycles_bounds (descriptor_mem_of_official hofficial) t.regs.p t.regs.crossed
  have helapsed := cyc_of_completed ha h
  dsimp only at helapsed
  have hservice : (if s.services = true then 7 else 0) ≤ 7 ∧
      (s.services = false → (if s.services = true then 7 else 0) = 0) := by cases s.services <;> decide
  rw [helapsed, BitVec.add_comm, BitVec.add_sub_cancel, BitVec.toNat_ofNat, Nat.mod_eq_of_lt (by omega)]
  exact ⟨by omega, by omega, fun hquiet => by have := hservice.2 hquiet; omega⟩

/-- Settles O12: the formula of a completed step, two checks of the opcode map, and the bounds that follow. -/
theorem stepAddsCyclesByTheFormula : Obligations.StepAddsCyclesByTheFormula :=
  ⟨fun _ _ => cyc_of_completed, fun _ => descriptor_cycles_of_illegal, opcodeTable_cycles, fun _ _ => elapsed_bounds⟩

/-! ### What a run is charged (R236) -/

/-- A completed step that ends alive is charged 1 to 14 cycles, or 1 instruction. -/
theorem charge_bounds {s t : State} (ha : s.alive = true) (h : stepOnce s = .next t) (ht : t.alive = true)
    (method : BudgetMethod) :
    1 ≤ charge method s t ∧ charge method s t ≤ 14 ∧ (method = .instructionCount → charge method s t = 1) := by
  rw [alive_of_completed ha h, decide_eq_true_iff] at ht
  obtain ⟨hlow, hhigh, -⟩ := elapsed_bounds ha h ht
  cases method
  · exact ⟨by simp only [charge]; omega, by simp only [charge]; omega, nofun⟩
  · exact ⟨le_rfl, by simp [charge], fun _ => rfl⟩

/-- How far a run may be past its budget when it ends (R236). -/
def BudgetMethod.overshoot : BudgetMethod → Int
  | .cycleCount => 13
  | .instructionCount => 0

/-- The loop from a budget that its rounds cover. -/
theorem runLoop_ends (method : BudgetMethod) (fuel : Nat) :
    ∀ (budget : Int) (s : State), s.cfg.undocumentedOpcodes = false → budget ≤ fuel → -method.overshoot ≤ budget →
      ∃ t left, runLoop method fuel budget s = .next (t, left) ∧ (left ≤ 0 ∨ t.alive = false) ∧ left ≤ budget ∧
        -method.overshoot ≤ left := by
  induction fuel with
  | zero => exact fun budget s _ hfuel hlow => ⟨s, budget, rfl, .inl hfuel, le_rfl, hlow⟩
  | succ fuel ih =>
    intro budget s hc hfuel hlow
    by_cases hbudget : budget ≤ 0
    · exact ⟨s, budget, runLoop_of_no_budget fuel method hbudget, .inl hbudget, le_rfl, hlow⟩
    have hpos : 0 < budget := Int.not_le.mp hbudget
    cases ha : s.boundary.alive with
    | false => exact ⟨_, budget, runLoop_of_not_alive fuel method hpos ha, .inr ha, le_rfl, hlow⟩
    | true =>
      obtain ⟨t, hstep, hcfg⟩ := stepOnce_next (s := s.boundary) (by rwa [State.boundary_cfg])
      rw [State.boundary_cfg] at hcfg
      cases ht : t.alive with
      | false => exact ⟨t, budget, runLoop_of_last_step fuel method hpos ha hstep ht, .inr ht, le_rfl, hlow⟩
      | true =>
        obtain ⟨hcharge, hcharge', hone⟩ := charge_bounds ha hstep ht method
        have hlow' : -method.overshoot ≤ budget - charge method s.boundary t := by
          cases method with
          | cycleCount => simp only [BudgetMethod.overshoot]; omega
          | instructionCount => simp only [BudgetMethod.overshoot, hone rfl]; omega
        obtain ⟨u, left, hrun, hend, hleft, hlast⟩ :=
          ih (budget - charge method s.boundary t) t (by rwa [hcfg]) (by push_cast at hfuel; omega) hlow'
        exact ⟨u, left, (runLoop_of_live_step fuel method hpos ha hstep ht).trans hrun, hend, by omega, hlast⟩

/-- Settles O60: the budget itself is enough rounds. -/
theorem runEndsByBudgetOrNotAlive : Obligations.RunEndsByBudgetOrNotAlive := by
  intro method budget s hc hpos
  have hlow : -method.overshoot ≤ budget := by cases method <;> simp only [BudgetMethod.overshoot] <;> omega
  obtain ⟨t, left, hrun, hend, hleft, hlast⟩ := runLoop_ends method budget.toNat budget s hc (by omega) hlow
  exact ⟨t, left, hrun, hend, hleft, by rintro rfl; exact hlast, by rintro rfl; exact hlast⟩

end Sys2Proof.Machine
end

section
/-! PROOFS. Non-interference (spec 10_state.md sections 3 and 5, 70_reset_and_hazards.md R286, R291): no operation looks at CYC,
and of P's bits none but ADC, SBC and the pushes of P looks at D. Both are said of one change of a state, to P and CYC,
which every operation passes through. -/

namespace Sys2Proof.Machine

/-- A state with P and CYC changed by the given functions. -/
def State.touch (s : State) (g : Byte → Byte) (k : Cycles → Cycles) : State :=
  { s with regs := { s.regs with p := g s.regs.p, cyc := k s.regs.cyc } }

/-- What changes at most bit D of P: it passes through the reading and the writing of every other flag. -/
structure OnlyD (g : Byte → Byte) : Prop where
  get : ∀ (f : Nat) (p : Byte), f ≠ flagD → getFlag f (g p) = getFlag f p
  put : ∀ (f : Nat) (v : Bool) (p : Byte), f ≠ flagD → putFlag f v (g p) = g (putFlag f v p)

theorem onlyD_id : OnlyD id := ⟨fun _ _ _ => rfl, fun _ _ _ _ => rfl⟩

/-- Two writes of different flags may be exchanged. -/
theorem putFlag_comm {f e : Nat} (h : f ≠ e) (v w : Bool) (p : Byte) :
    putFlag f v (putFlag e w p) = putFlag e w (putFlag f v p) := by
  refine BitVec.eq_of_getLsbD_eq fun k _ => ?_
  simp only [getLsbD_putFlag]
  by_cases hf : k = f
  · subst hf
    simp [h]
  · simp [hf]

theorem onlyD_putFlag (d : Bool) : OnlyD (putFlag flagD d) :=
  ⟨fun _ p h => getFlag_putFlag_other h d p, fun _ v p h => putFlag_comm h v d p⟩

/-! ### The operations -/

section
variable (s : State) (g : Byte → Byte) (k : Cycles → Cycles)

@[simp] theorem State.evaluate_touch (o : Operand) :
    (s.touch g k).evaluate o = ((s.evaluate o).1, (s.evaluate o).2.touch g k) := by cases o <;> rfl

@[simp] theorem State.operandRead_touch (o : Operand) :
    (s.touch g k).operandRead o = ((s.operandRead o).1, (s.operandRead o).2.touch g k) := by cases o <;> rfl

@[simp] theorem State.operandWrite_touch (o : Operand) (v : Byte) :
    (s.touch g k).operandWrite o v = (s.operandWrite o v).touch g k := by cases o <;> rfl

end

section
variable {g : Byte → Byte} (hg : OnlyD g) (k : Cycles → Cycles) (s : State)
include hg

theorem OnlyD.putNZ (v p : Byte) : putNZ v (g p) = g (putNZ v p) := by
  rw [Machine.putNZ, hg.put _ _ _ (by decide), hg.put _ _ _ (by decide)]
  rfl

theorem OnlyD.comparedP (r m p : Byte) : comparedP r m (g p) = g (comparedP r m p) := by
  rw [Machine.comparedP, hg.putNZ, hg.put _ _ _ (by decide)]
  rfl

theorem OnlyD.bitTestedP (a m p : Byte) : bitTestedP a m (g p) = g (bitTestedP a m p) := by
  rw [Machine.bitTestedP, hg.put _ _ _ (by decide), hg.put _ _ _ (by decide), hg.put _ _ _ (by decide)]
  rfl

theorem OnlyD.shiftedP (r : Byte × Bool) (p : Byte) : shiftedP r (g p) = g (shiftedP r p) := by
  rw [Machine.shiftedP, hg.put _ _ _ (by decide), hg.putNZ]
  rfl

theorem OnlyD.flag (f : Nat) (h : f ≠ flagD) : (s.touch g k).flag f = s.flag f := hg.get f _ h

omit hg in
/-- A write of P passes through the change if its byte does. -/
theorem State.setP_touch {s u : State} {p q : Byte} (hu : u = s.touch g k) (hp : q = g p) :
    u.setP q = (s.setP p).touch g k := by
  subst hu hp
  rfl

theorem OnlyD.setNZ {s u : State} (hu : u = s.touch g k) (v : Byte) : u.setNZ v = (s.setNZ v).touch g k :=
  State.setP_touch k hu (by rw [hu]; exact hg.putNZ v s.regs.p)

theorem OnlyD.setFlag (f : Nat) (v : Bool) (h : f ≠ flagD) : (s.touch g k).setFlag f v = (s.setFlag f v).touch g k :=
  State.setP_touch k rfl (hg.put f v s.regs.p h)

theorem OnlyD.shift (f : Byte → Bool → Byte × Bool) (o : Operand) :
    State.shift f (s.touch g k) o = (State.shift f s o).touch g k := by
  by_cases h : o = .acc
  · subst h
    rw [State.shift_acc, State.shift_acc, hg.flag k s flagC (by decide)]
    exact congrArg (State.setA · _) (State.setP_touch k (s := s.setCrossed false) rfl (hg.shiftedP _ s.regs.p))
  · rw [State.shift_memory f _ h, State.shift_memory f s h, hg.flag k s flagC (by decide), State.evaluate_touch]
    exact congrArg (State.memWrite · _ _)
      (State.setP_touch k (s := ((s.evaluate o).2.memRead (s.evaluate o).1).2) rfl (hg.shiftedP _ s.regs.p))

theorem OnlyD.bump (f : Byte → Byte) (o : Operand) : State.bump f (s.touch g k) o = (State.bump f s o).touch g k := by
  rw [State.bump, State.evaluate_touch]
  exact congrArg (State.memWrite · _ _) (hg.setNZ k (s := ((s.evaluate o).2.memRead (s.evaluate o).1).2) rfl _)

end

section
variable {k : Cycles → Cycles} (hk : ∀ c n, k c + n = k (c + n)) (s : State) (g : Byte → Byte)
include hk

theorem State.addCycles_touch (n : Nat) : (s.touch g k).addCycles n = (s.addCycles n).touch g k :=
  congrArg (fun c => ({ s.touch g k with regs := { (s.touch g k).regs with cyc := c } } : State)) (hk s.regs.cyc _)

theorem State.branchIf_touch (taken : Bool) (o : Operand) :
    (s.touch g k).branchIf taken o = (s.branchIf taken o).touch g k := by
  rw [State.branchIf, State.evaluate_touch]
  cases taken
  · rfl
  · exact State.addCycles_touch hk ((s.evaluate o).2.setPC (s.evaluate o).1) g _

theorem State.service_touch (vector : Word) : (s.touch id k).service vector = (s.service vector).touch id k :=
  State.addCycles_touch hk (s.enterInterrupt false vector) id _

end

theorem State.returnFromInterrupt_touch (s : State) (k : Cycles → Cycles) :
    (s.touch id k).returnFromInterrupt = s.returnFromInterrupt.touch id k := by
  rw [State.returnFromInterrupt_eq, State.returnFromInterrupt_eq]
  by_cases h : s.regs.nmiState = .inService
  · have ht : (s.touch id k).regs.nmiState = .inService := h
    rw [if_pos h, if_pos ht]
    rfl
  · have ht : (s.touch id k).regs.nmiState ≠ .inService := h
    rw [if_neg h, if_neg ht]
    rfl

/-! ### The instructions -/

/-- The instructions that read D, push P or write D. -/
def dependentOnD : List Mnemonic := [.adc, .sbc, .php, .brk, .cld, .sed, .plp, .rti]

/-- A change of CYC, and one of D for the instructions that do not depend on D, passes through every instruction. -/
theorem exec_touch {g : Byte → Byte} {k : Cycles → Cycles} (hg : OnlyD g) (hk : ∀ c n, k c + n = k (c + n)) {i : Instr}
    (hi : i.mnemonic ∈ dependentOnD → g = id) {s t : State} (h : exec i s = .next t) :
    exec i (s.touch g k) = .next (t.touch g k) := by
  cases i <;> cases h <;> refine congrArg Host.Outcome.next ?_
  case adc o | sbc o =>
    obtain rfl := hi (by simp [dependentOnD, Instr.mnemonic])
    rw [State.operandRead_touch]
    rfl
  case php | brk | cld | sed | plp =>
    obtain rfl := hi (by simp [dependentOnD, Instr.mnemonic])
    rfl
  case rti =>
    obtain rfl := hi (by simp [dependentOnD, Instr.mnemonic])
    exact s.implied.returnFromInterrupt_touch k
  case lda | ldx | ldy | and | eor | ora =>
    rw [State.operandRead_touch]
    exact hg.setNZ k (by rfl) _
  case bit =>
    rw [State.operandRead_touch]
    exact State.setP_touch k (by rfl) (hg.bitTestedP _ _ _)
  case cmp | cpx | cpy =>
    rw [State.operandRead_touch]
    exact State.setP_touch k (by rfl) (hg.comparedP _ _ _)
  case sta | stx | sty => exact s.operandWrite_touch g k _ _
  case tax | tay | txa | tya | tsx | inx | iny | dex | dey | pla => exact hg.setNZ k (by rfl) _
  case asl | lsr | rol | ror => exact hg.shift k s _ _
  case inc | dec => exact hg.bump k s _ _
  case bcc | bcs | beq | bne | bmi | bpl | bvc | bvs =>
    rw [hg.flag k s _ (by decide)]
    exact s.branchIf_touch hk g _ _
  case jmp | jsr =>
    rw [State.evaluate_touch]
    rfl
  case clc | sec | cli | sei | clv => exact hg.setFlag k s.implied _ _ (by decide)
  all_goals rfl

/-- Settles O30: writing D is such a change. -/
theorem onlyAdcAndSbcReadD : Obligations.OnlyAdcAndSbcReadD :=
  fun _ _ _ d hi h => exec_touch (k := id) (onlyD_putFlag d) (fun _ _ => rfl) (fun hmem => absurd hmem hi) h

/-! ### The step -/

/-- The edge detector as one update of the registers. -/
theorem State.nmiInput_eq (s : State) (level : Bool) :
    s.nmiInput level = { s with regs := (s.nmiInput level).regs } := by
  unfold State.nmiInput
  dsimp only
  split <;> rfl

theorem State.nmiInput_touch (s : State) (g : Byte → Byte) (k : Cycles → Cycles) (level : Bool) :
    (s.touch g k).nmiInput level = (s.nmiInput level).touch g k := by
  rw [State.nmiInput_eq, State.nmiInput_regs, State.nmiInput_eq s, State.nmiInput_regs]
  rfl

theorem State.sampleInterrupts_touch {k : Cycles → Cycles} (hk : ∀ c n, k c + n = k (c + n)) (s : State) :
    (s.touch id k).sampleInterrupts = s.sampleInterrupts.touch id k := by
  have hn : (s.touch id k).nmiInput (s.touch id k).inputs.nmi = (s.nmiInput s.inputs.nmi).touch id k :=
    s.nmiInput_touch id k s.inputs.nmi
  by_cases h : (s.nmiInput s.inputs.nmi).regs.nmiState = .pending
  · have ht : ((s.touch id k).nmiInput (s.touch id k).inputs.nmi).regs.nmiState = .pending := by rw [hn]; exact h
    rw [State.sampleInterrupts_of_pending h, State.sampleInterrupts_of_pending ht, hn]
    exact State.service_touch hk ((s.nmiInput s.inputs.nmi).setNmiState .inService) nmiVector
  · have ht : ((s.touch id k).nmiInput (s.touch id k).inputs.nmi).regs.nmiState ≠ .pending := by rw [hn]; exact h
    rw [State.sampleInterrupts_of_not_pending h, State.sampleInterrupts_of_not_pending ht, hn]
    by_cases hirq : s.inputs.irq = true ∧ s.flag flagI = false
    · rw [if_pos hirq]
      exact (if_pos hirq).trans (State.service_touch hk _ irqVector)
    · rw [if_neg hirq]
      exact if_neg hirq

theorem State.fetchInstr_touch (s : State) (g : Byte → Byte) (k : Cycles → Cycles) :
    (s.touch g k).fetchInstr = (s.fetchInstr.1, s.fetchInstr.2.touch g k) := by
  rw [State.fetchInstr_eq, State.fetchInstr_eq]
  by_cases hzero : (descriptor s.fetch.1).mode.operandBytes = 0
  · rw [if_pos hzero]
    exact if_pos hzero
  · rw [if_neg hzero]
    refine (if_neg hzero).trans ?_
    by_cases hone : (descriptor s.fetch.1).mode.operandBytes = 1
    · rw [if_pos hone]
      exact if_pos hone
    · rw [if_neg hone]
      exact if_neg hone

/-- The accounting of cycles passes a change of CYC on, and the ticks, a difference, are the same. -/
theorem State.account_touch (u : State) (start d : Cycles) :
    (u.touch id (· + d)).accountCycles.emitTicks (start + d) = (u.accountCycles.emitTicks start).touch id (· + d) := by
  have hk : ∀ c n : Cycles, (c + d) + n = (c + n) + d := fun c n => add_right_comm c d n
  have hcyc : (u.touch id (· + d)).accountCycles = u.accountCycles.touch id (· + d) := State.addCycles_touch hk u id _
  have hdiff : u.accountCycles.regs.cyc + d - (start + d) = u.accountCycles.regs.cyc - start :=
    add_sub_add_right_eq_sub ..
  rw [hcyc]
  exact congrArg (fun n : Cycles => ({ u.accountCycles.touch id (· + d) with ticks := u.ticks + n.toNat } : State)) hdiff

/-- Settles O13: a step passes a change of CYC on to its end. -/
theorem cyclesNeverFeedBack : Obligations.CyclesNeverFeedBack := by
  intro s t d h
  have hk : ∀ c n : Cycles, (c + d) + n = (c + n) + d := fun c n => add_right_comm c d n
  obtain ⟨hc, ⟨hdead, rfl⟩ | ⟨ha, u, hu, rfl⟩⟩ := stepOnce_cases h
  · exact stepOnce_idle hc hdead
  · have hfetch : (s.touch id (· + d)).sampleInterrupts.fetchInstr = (s.fetchedInstr, s.fetched.touch id (· + d)) := by
      rw [State.sampleInterrupts_touch hk, State.fetchInstr_touch]
      rfl
    have hrun : exec (s.touch id (· + d)).fetchedInstr (s.touch id (· + d)).fetched = .next (u.touch id (· + d)) := by
      rw [State.fetchedInstr, State.fetched, hfetch]
      exact exec_touch onlyD_id hk (fun _ => rfl) hu
    have hstep := stepOnce_run (s := s.touch id (· + d)) hc ha hrun
    rwa [show (s.touch id (· + d)).regs.cyc = s.regs.cyc + d from rfl, State.account_touch] at hstep

end Sys2Proof.Machine
end
